-- ==== Sys2Proof/Word.lean ====
section
/-! DEFINITION. The bit-vector types of the machine (spec/00_scope.md R5, R7, R11).

All values are bit vectors; `+` and `-` on them are modulo `2 ^ width`.
`signed(v)` of the spec is `BitVec.toInt`, `unsigned(v)` is `BitVec.toNat`, `v[hi:lo]` is
`BitVec.extractLsb' lo (hi - lo + 1) v`, `a || b` is `a ++ b`, `sext_32` is `BitVec.signExtend 32`
and `zext_32` is `BitVec.setWidth 32` (R8, R9). -/

namespace Sys2Proof

/-- A word, an address, the width of every register: 32 bits (R5). -/
abbrev Word := BitVec 32

/-- A halfword: 16 bits (R5). -/
abbrev Half := BitVec 16

/-- A byte, the addressable unit: 8 bits (R5, spec/20_memory.md R50). -/
abbrev Byte := BitVec 8

end Sys2Proof
end

