-- ==== Sys2Proof/Config.lean ====
section
/-! DEFINITION. What one launch of the machine fixes (spec/00_scope.md R6) and the free values.

The four parameters that are plain data (`ENDIAN`, `DELAY_SLOTS`, `mapped`, `text`) are a record that
State carries unchanged, so a statement about every state is a statement about every value of them
(DESIGN CHOICE, log 1). The six floating-point functions and the draws are opaque constants: nothing
can be proved of their values (logs 10 and 11). -/

namespace Sys2Proof

/-- `ENDIAN` (R6): the byte order of data accesses and instruction fetch. -/
inductive Endian where
  | big
  | little
deriving DecidableEq, Repr

/-- The address range `base, base + 1, ..., base + size - 1`. Every set of byte addresses is a finite
list of such ranges. -/
structure Region where
  base : Nat
  size : Nat
deriving DecidableEq, Repr

/-- The parameters of R6 that a run carries unchanged. -/
structure Config where
  /-- `ENDIAN`, decision D2. -/
  endian : Endian
  /-- `DELAY_SLOTS`, decision D6. -/
  delaySlots : Bool
  /-- `mapped`: which byte addresses exist, decision D16. -/
  mapped : List Region
  /-- `text`: the addresses holding the loaded program, decision D18. -/
  text : List Region
deriving DecidableEq, Repr

/-- `any32()` (R12): the n-th draw of a run is `any32 n`, a value under no law.
The draws are read through the counter `draws` of State (log 10). -/
opaque Config.any32 : Nat → Word

/-- `FP_ADD_S` (R6, spec/48_coprocessor.md R263): first argument `f[fs]`, second `f[ft]` (log 11). -/
opaque Config.fpAddS : Word → Word → Word

/-- `FP_SUB_S` (R6, R263; log 11). -/
opaque Config.fpSubS : Word → Word → Word

/-- `FP_MUL_S` (R6, R263; log 11). -/
opaque Config.fpMulS : Word → Word → Word

/-- `FP_DIV_S` (R6, R263; log 11). -/
opaque Config.fpDivS : Word → Word → Word

/-- `FP_CVT_S_W` (R6, R263; log 11). -/
opaque Config.fpCvtSW : Word → Word

/-- `FP_CVT_W_S` (R6, R263; log 11). -/
opaque Config.fpCvtWS : Word → Word

end Sys2Proof
end

