-- ==== Sys2Proof/Syntax.lean ====
section
/-! DEFINITION. The 64 instructions (spec/00_scope.md R2), one constructor per row of
spec/opcode_table.json, operands in the assembly order of spec/30_encoding.md R94 to R99, R104, R105.

An operand's type is exactly the field that codes it (R82 to R85), so an operand outside its field
cannot be written. -/

namespace Sys2Proof

/-- The number of a general register `$0` to `$31` (spec/10_state.md R21). -/
abbrev Reg := BitVec 5

/-- The number of a floating-point register `$f0` to `$f31` (spec/10_state.md R28). -/
abbrev FReg := BitVec 5

/-- The number of a coprocessor-0 register (spec/10_state.md R31). -/
abbrev CReg := BitVec 5

/-- The shift amount field `sa` (spec/30_encoding.md R82). -/
abbrev Shamt := BitVec 5

/-- The immediate field `imm` (spec/30_encoding.md R83). -/
abbrev Imm := BitVec 16

/-- The target field of a jump (spec/30_encoding.md R84). -/
abbrev Target := BitVec 26

/-- The instructions in scope (spec/00_scope.md R2). -/
inductive Instr where
  -- R-type shifts (spec/41_rtype_shift.md)
  | sll (rd : Reg) (rt : Reg) (sa : Shamt)
  | srl (rd : Reg) (rt : Reg) (sa : Shamt)
  | sra (rd : Reg) (rt : Reg) (sa : Shamt)
  | sllv (rd : Reg) (rt : Reg) (rs : Reg)
  | srlv (rd : Reg) (rt : Reg) (rs : Reg)
  | srav (rd : Reg) (rt : Reg) (rs : Reg)
  -- R-type jumps and system instructions (spec/43_rtype_jump_system.md); `brk` is `break`
  | jr (rs : Reg)
  | jalr (rd : Reg) (rs : Reg)
  | syscall
  | brk
  -- R-type HI/LO moves, multiply, divide (spec/42_rtype_muldiv.md)
  | mfhi (rd : Reg)
  | mthi (rs : Reg)
  | mflo (rd : Reg)
  | mtlo (rs : Reg)
  | mult (rs : Reg) (rt : Reg)
  | multu (rs : Reg) (rt : Reg)
  | div (rs : Reg) (rt : Reg)
  | divu (rs : Reg) (rt : Reg)
  -- R-type arithmetic, logical and comparison (spec/40_rtype_alu.md)
  | add (rd : Reg) (rs : Reg) (rt : Reg)
  | addu (rd : Reg) (rs : Reg) (rt : Reg)
  | sub (rd : Reg) (rs : Reg) (rt : Reg)
  | subu (rd : Reg) (rs : Reg) (rt : Reg)
  | and (rd : Reg) (rs : Reg) (rt : Reg)
  | or (rd : Reg) (rs : Reg) (rt : Reg)
  | xor (rd : Reg) (rs : Reg) (rt : Reg)
  | nor (rd : Reg) (rs : Reg) (rt : Reg)
  | slt (rd : Reg) (rs : Reg) (rt : Reg)
  | sltu (rd : Reg) (rs : Reg) (rt : Reg)
  -- I-type branches (spec/45_itype_branch.md); the offset field stands for the label
  | bltz (rs : Reg) (imm : Imm)
  | bgez (rs : Reg) (imm : Imm)
  | beq (rs : Reg) (rt : Reg) (imm : Imm)
  | bne (rs : Reg) (rt : Reg) (imm : Imm)
  | blez (rs : Reg) (imm : Imm)
  | bgtz (rs : Reg) (imm : Imm)
  -- I-type arithmetic, logical, comparison, load upper (spec/44_itype_alu.md)
  | addi (rt : Reg) (rs : Reg) (imm : Imm)
  | addiu (rt : Reg) (rs : Reg) (imm : Imm)
  | slti (rt : Reg) (rs : Reg) (imm : Imm)
  | sltiu (rt : Reg) (rs : Reg) (imm : Imm)
  | andi (rt : Reg) (rs : Reg) (imm : Imm)
  | ori (rt : Reg) (rs : Reg) (imm : Imm)
  | xori (rt : Reg) (rs : Reg) (imm : Imm)
  | lui (rt : Reg) (imm : Imm)
  -- I-type loads and stores (spec/46_itype_loadstore.md), written `rt, imm(rs)`
  | lb (rt : Reg) (imm : Imm) (rs : Reg)
  | lh (rt : Reg) (imm : Imm) (rs : Reg)
  | lw (rt : Reg) (imm : Imm) (rs : Reg)
  | lbu (rt : Reg) (imm : Imm) (rs : Reg)
  | lhu (rt : Reg) (imm : Imm) (rs : Reg)
  | sb (rt : Reg) (imm : Imm) (rs : Reg)
  | sh (rt : Reg) (imm : Imm) (rs : Reg)
  | sw (rt : Reg) (imm : Imm) (rs : Reg)
  | lwc1 (ft : FReg) (imm : Imm) (rs : Reg)
  | swc1 (ft : FReg) (imm : Imm) (rs : Reg)
  -- J-type jumps (spec/47_jtype.md)
  | j (target : Target)
  | jal (target : Target)
  -- coprocessor instructions (spec/48_coprocessor.md); `addS` is `add.s`, `cvtSW` is `cvt.s.w`
  | mfc0 (rt : Reg) (rd : CReg)
  | mfc1 (rt : Reg) (fs : FReg)
  | mtc1 (rt : Reg) (fs : FReg)
  | addS (fd : FReg) (fs : FReg) (ft : FReg)
  | subS (fd : FReg) (fs : FReg) (ft : FReg)
  | mulS (fd : FReg) (fs : FReg) (ft : FReg)
  | divS (fd : FReg) (fs : FReg) (ft : FReg)
  | movS (fd : FReg) (fs : FReg)
  | cvtSW (fd : FReg) (fs : FReg)
  | cvtWS (fd : FReg) (fs : FReg)
deriving DecidableEq, Repr

/-- The mnemonic of an instruction, as spec/opcode_table.json spells it. -/
def Instr.mnemonic : Instr → String
  | .sll .. => "sll"
  | .srl .. => "srl"
  | .sra .. => "sra"
  | .sllv .. => "sllv"
  | .srlv .. => "srlv"
  | .srav .. => "srav"
  | .jr .. => "jr"
  | .jalr .. => "jalr"
  | .syscall => "syscall"
  | .brk => "break"
  | .mfhi .. => "mfhi"
  | .mthi .. => "mthi"
  | .mflo .. => "mflo"
  | .mtlo .. => "mtlo"
  | .mult .. => "mult"
  | .multu .. => "multu"
  | .div .. => "div"
  | .divu .. => "divu"
  | .add .. => "add"
  | .addu .. => "addu"
  | .sub .. => "sub"
  | .subu .. => "subu"
  | .and .. => "and"
  | .or .. => "or"
  | .xor .. => "xor"
  | .nor .. => "nor"
  | .slt .. => "slt"
  | .sltu .. => "sltu"
  | .bltz .. => "bltz"
  | .bgez .. => "bgez"
  | .beq .. => "beq"
  | .bne .. => "bne"
  | .blez .. => "blez"
  | .bgtz .. => "bgtz"
  | .addi .. => "addi"
  | .addiu .. => "addiu"
  | .slti .. => "slti"
  | .sltiu .. => "sltiu"
  | .andi .. => "andi"
  | .ori .. => "ori"
  | .xori .. => "xori"
  | .lui .. => "lui"
  | .lb .. => "lb"
  | .lh .. => "lh"
  | .lw .. => "lw"
  | .lbu .. => "lbu"
  | .lhu .. => "lhu"
  | .sb .. => "sb"
  | .sh .. => "sh"
  | .sw .. => "sw"
  | .lwc1 .. => "lwc1"
  | .swc1 .. => "swc1"
  | .j .. => "j"
  | .jal .. => "jal"
  | .mfc0 .. => "mfc0"
  | .mfc1 .. => "mfc1"
  | .mtc1 .. => "mtc1"
  | .addS .. => "add.s"
  | .subS .. => "sub.s"
  | .mulS .. => "mul.s"
  | .divS .. => "div.s"
  | .movS .. => "mov.s"
  | .cvtSW .. => "cvt.s.w"
  | .cvtWS .. => "cvt.w.s"

end Sys2Proof
end

