-- ==== Sys2Proof/WellFormed.lean ====
section
/-! DEFINITION. The checks on an instruction and on a launch configuration that their types do not
already make.

Every operand of `Instr` has the width of its field (spec/30_encoding.md R106), so one rule about
instructions is left: spec/10_state.md R29 and spec/48_coprocessor.md R253, by which the seven
floating-point arithmetic, move and convert instructions are defined only on even registers. An
ill-formed instruction still has an encoding and a decoding; running it raises `ReservedInstruction`. -/

namespace Sys2Proof

/-- "every floating-point register field used must be even" (spec/48_coprocessor.md R253). -/
def fprEven (f : FReg) : Bool := f.toNat % 2 == 0

/-- The form is one the spec defines: even registers in `add.s sub.s mul.s div.s mov.s cvt.s.w
cvt.w.s` (R29, R253); no condition on any other instruction. -/
def Instr.wellFormed : Instr → Bool
  | .addS fd fs ft => fprEven fd && fprEven fs && fprEven ft
  | .subS fd fs ft => fprEven fd && fprEven fs && fprEven ft
  | .mulS fd fs ft => fprEven fd && fprEven fs && fprEven ft
  | .divS fd fs ft => fprEven fd && fprEven fs && fprEven ft
  | .movS fd fs => fprEven fd && fprEven fs
  | .cvtSW fd fs => fprEven fd && fprEven fs
  | .cvtWS fd fs => fprEven fd && fprEven fs
  | .sll .. => true
  | .srl .. => true
  | .sra .. => true
  | .sllv .. => true
  | .srlv .. => true
  | .srav .. => true
  | .jr .. => true
  | .jalr .. => true
  | .syscall => true
  | .brk => true
  | .mfhi .. => true
  | .mthi .. => true
  | .mflo .. => true
  | .mtlo .. => true
  | .mult .. => true
  | .multu .. => true
  | .div .. => true
  | .divu .. => true
  | .add .. => true
  | .addu .. => true
  | .sub .. => true
  | .subu .. => true
  | .and .. => true
  | .or .. => true
  | .xor .. => true
  | .nor .. => true
  | .slt .. => true
  | .sltu .. => true
  | .bltz .. => true
  | .bgez .. => true
  | .beq .. => true
  | .bne .. => true
  | .blez .. => true
  | .bgtz .. => true
  | .addi .. => true
  | .addiu .. => true
  | .slti .. => true
  | .sltiu .. => true
  | .andi .. => true
  | .ori .. => true
  | .xori .. => true
  | .lui .. => true
  | .lb .. => true
  | .lh .. => true
  | .lw .. => true
  | .lbu .. => true
  | .lhu .. => true
  | .sb .. => true
  | .sh .. => true
  | .sw .. => true
  | .lwc1 .. => true
  | .swc1 .. => true
  | .j .. => true
  | .jal .. => true
  | .mfc0 .. => true
  | .mfc1 .. => true
  | .mtc1 .. => true

/-- A region lies inside the 2^32-byte address space (spec/20_memory.md R50). -/
def Region.wellFormed (r : Region) : Bool := r.base + r.size ≤ 2 ^ 32

/-- Every region of a configuration lies inside the address space. -/
def Config.wellFormed (c : Config) : Bool :=
  c.mapped.all Region.wellFormed && c.text.all Region.wellFormed

end Sys2Proof
end

