-- ==== Sys2Proof/Decode.lean ====
section
/-! DEFINITION. Decoding and encoding (spec/30_encoding.md).

`decodeWord` follows the opcode maps R94 to R97 with the unused fields of R87 required to be zero
(R101); `decode` takes bytes in the order of `ENDIAN` (spec/20_memory.md R55, R56). `encode` is
written from the same tables. `opcodeTable` is the mask and match column of spec/opcode_table.json,
held beside the decoder as a second description of the same encodings (R101). -/

namespace Sys2Proof

/-! ### Fields of a word (R82 to R85; spec/00_scope.md R13) -/

/-- `opcode = IR[31:26]`. -/
def fieldOpcode (w : Word) : BitVec 6 := w.extractLsb' 26 6

/-- `rs = IR[25:21]`; `fmt` of the coprocessor layout (R85). -/
def fieldRs (w : Word) : BitVec 5 := w.extractLsb' 21 5

/-- `rt = IR[20:16]`; `ft` of the coprocessor layout (R85). -/
def fieldRt (w : Word) : BitVec 5 := w.extractLsb' 16 5

/-- `rd = IR[15:11]`; `fs` of the coprocessor layout (R85). -/
def fieldRd (w : Word) : BitVec 5 := w.extractLsb' 11 5

/-- `sa = IR[10:6]`; `fd` of the coprocessor layout (R85). -/
def fieldSa (w : Word) : BitVec 5 := w.extractLsb' 6 5

/-- `funct = IR[5:0]`. -/
def fieldFunct (w : Word) : BitVec 6 := w.extractLsb' 0 6

/-- `imm = IR[15:0]`. -/
def fieldImm (w : Word) : Imm := w.extractLsb' 0 16

/-- `target = IR[25:0]`. -/
def fieldTarget (w : Word) : Target := w.extractLsb' 0 26

/-! ### The decoder -/

/-- Why bytes are no instruction. Each but `truncated` makes the word one that "matches no row" (R100). -/
inductive Reject where
  /-- fewer than the four bytes of a word are given -/
  | truncated
  /-- the opcode is `-` in R94 -/
  | reservedOpcode
  /-- the function code is `-` in R95 or R96 -/
  | reservedFunct
  /-- `rt` is no opcode extension of R92 -/
  | reservedRtExtension
  /-- `fmt` is none of R93, R97 -/
  | reservedFormat
  /-- a field the instruction does not use is not zero (R87) -/
  | unusedFieldNotZero
deriving DecidableEq, Repr

/-- `i` if its unused fields are zero (R87, R101). -/
def requireZero (unusedAreZero : Bool) (i : Instr) : Except Reject Instr :=
  if unusedAreZero then .ok i else .error .unusedFieldNotZero

/-- The R-type group, by function code (R95). -/
def decodeSpecial (w : Word) : Except Reject Instr :=
  let rs := fieldRs w
  let rt := fieldRt w
  let rd := fieldRd w
  let sa := fieldSa w
  match (fieldFunct w).toNat with
  | 0x00 => requireZero (rs == 0#5) (.sll rd rt sa)
  | 0x02 => requireZero (rs == 0#5) (.srl rd rt sa)
  | 0x03 => requireZero (rs == 0#5) (.sra rd rt sa)
  | 0x04 => requireZero (sa == 0#5) (.sllv rd rt rs)
  | 0x06 => requireZero (sa == 0#5) (.srlv rd rt rs)
  | 0x07 => requireZero (sa == 0#5) (.srav rd rt rs)
  | 0x08 => requireZero (rt == 0#5 && rd == 0#5 && sa == 0#5) (.jr rs)
  | 0x09 => requireZero (rt == 0#5 && sa == 0#5) (.jalr rd rs)
  | 0x0C => requireZero (rs == 0#5 && rt == 0#5 && rd == 0#5 && sa == 0#5) .syscall
  | 0x0D => requireZero (rs == 0#5 && rt == 0#5 && rd == 0#5 && sa == 0#5) .brk
  | 0x10 => requireZero (rs == 0#5 && rt == 0#5 && sa == 0#5) (.mfhi rd)
  | 0x11 => requireZero (rt == 0#5 && rd == 0#5 && sa == 0#5) (.mthi rs)
  | 0x12 => requireZero (rs == 0#5 && rt == 0#5 && sa == 0#5) (.mflo rd)
  | 0x13 => requireZero (rt == 0#5 && rd == 0#5 && sa == 0#5) (.mtlo rs)
  | 0x18 => requireZero (rd == 0#5 && sa == 0#5) (.mult rs rt)
  | 0x19 => requireZero (rd == 0#5 && sa == 0#5) (.multu rs rt)
  | 0x1A => requireZero (rd == 0#5 && sa == 0#5) (.div rs rt)
  | 0x1B => requireZero (rd == 0#5 && sa == 0#5) (.divu rs rt)
  | 0x20 => requireZero (sa == 0#5) (.add rd rs rt)
  | 0x21 => requireZero (sa == 0#5) (.addu rd rs rt)
  | 0x22 => requireZero (sa == 0#5) (.sub rd rs rt)
  | 0x23 => requireZero (sa == 0#5) (.subu rd rs rt)
  | 0x24 => requireZero (sa == 0#5) (.and rd rs rt)
  | 0x25 => requireZero (sa == 0#5) (.or rd rs rt)
  | 0x26 => requireZero (sa == 0#5) (.xor rd rs rt)
  | 0x27 => requireZero (sa == 0#5) (.nor rd rs rt)
  | 0x2A => requireZero (sa == 0#5) (.slt rd rs rt)
  | 0x2B => requireZero (sa == 0#5) (.sltu rd rs rt)
  | _ => .error .reservedFunct

/-- Opcode 000001, by the `rt` extension (R92). -/
def decodeRegimm (w : Word) : Except Reject Instr :=
  match (fieldRt w).toNat with
  | 0x00 => .ok (.bltz (fieldRs w) (fieldImm w))
  | 0x01 => .ok (.bgez (fieldRs w) (fieldImm w))
  | _ => .error .reservedRtExtension

/-- Opcode 010000, coprocessor 0 (R97). -/
def decodeCop0 (w : Word) : Except Reject Instr :=
  match (fieldRs w).toNat with
  | 0x00 =>
    requireZero (fieldSa w == 0#5 && fieldFunct w == 0#6) (.mfc0 (fieldRt w) (fieldRd w))
  | _ => .error .reservedFormat

/-- Opcode 010001 with `fmt` = 10000, single precision (R96). -/
def decodeFmtS (w : Word) : Except Reject Instr :=
  let ft := fieldRt w
  let fs := fieldRd w
  let fd := fieldSa w
  match (fieldFunct w).toNat with
  | 0x00 => .ok (.addS fd fs ft)
  | 0x01 => .ok (.subS fd fs ft)
  | 0x02 => .ok (.mulS fd fs ft)
  | 0x03 => .ok (.divS fd fs ft)
  | 0x06 => requireZero (ft == 0#5) (.movS fd fs)
  | 0x24 => requireZero (ft == 0#5) (.cvtWS fd fs)
  | _ => .error .reservedFunct

/-- Opcode 010001 with `fmt` = 10100, fixed point (R96). -/
def decodeFmtW (w : Word) : Except Reject Instr :=
  match (fieldFunct w).toNat with
  | 0x20 => requireZero (fieldRt w == 0#5) (.cvtSW (fieldSa w) (fieldRd w))
  | _ => .error .reservedFunct

/-- Opcode 010001, coprocessor 1, by `fmt` (R93, R96). -/
def decodeCop1 (w : Word) : Except Reject Instr :=
  match (fieldRs w).toNat with
  | 0x00 =>
    requireZero (fieldSa w == 0#5 && fieldFunct w == 0#6) (.mfc1 (fieldRt w) (fieldRd w))
  | 0x04 =>
    requireZero (fieldSa w == 0#5 && fieldFunct w == 0#6) (.mtc1 (fieldRt w) (fieldRd w))
  | 0x10 => decodeFmtS w
  | 0x14 => decodeFmtW w
  | _ => .error .reservedFormat

/-- The instruction of a 32-bit word, by primary opcode (R81, R94). -/
def decodeWord (w : Word) : Except Reject Instr :=
  let rs := fieldRs w
  let rt := fieldRt w
  let imm := fieldImm w
  match (fieldOpcode w).toNat with
  | 0x00 => decodeSpecial w
  | 0x01 => decodeRegimm w
  | 0x02 => .ok (.j (fieldTarget w))
  | 0x03 => .ok (.jal (fieldTarget w))
  | 0x04 => .ok (.beq rs rt imm)
  | 0x05 => .ok (.bne rs rt imm)
  | 0x06 => if rt = 0#5 then .ok (.blez rs imm) else .error .reservedRtExtension
  | 0x07 => if rt = 0#5 then .ok (.bgtz rs imm) else .error .reservedRtExtension
  | 0x08 => .ok (.addi rt rs imm)
  | 0x09 => .ok (.addiu rt rs imm)
  | 0x0A => .ok (.slti rt rs imm)
  | 0x0B => .ok (.sltiu rt rs imm)
  | 0x0C => .ok (.andi rt rs imm)
  | 0x0D => .ok (.ori rt rs imm)
  | 0x0E => .ok (.xori rt rs imm)
  | 0x0F => requireZero (rs == 0#5) (.lui rt imm)
  | 0x10 => decodeCop0 w
  | 0x11 => decodeCop1 w
  | 0x20 => .ok (.lb rt imm rs)
  | 0x21 => .ok (.lh rt imm rs)
  | 0x23 => .ok (.lw rt imm rs)
  | 0x24 => .ok (.lbu rt imm rs)
  | 0x25 => .ok (.lhu rt imm rs)
  | 0x28 => .ok (.sb rt imm rs)
  | 0x29 => .ok (.sh rt imm rs)
  | 0x2B => .ok (.sw rt imm rs)
  | 0x31 => .ok (.lwc1 rt imm rs)
  | 0x39 => .ok (.swc1 rt imm rs)
  | _ => .error .reservedOpcode

/-- Four bytes, in address order, as a word (spec/20_memory.md R56 with n = 4). -/
def wordOfBytes (e : Endian) (b0 b1 b2 b3 : Byte) : Word :=
  match e with
  | .little => b3 ++ b2 ++ b1 ++ b0
  | .big => b0 ++ b1 ++ b2 ++ b3

/-- The instruction at the head of a byte string, with the bytes after it: "a decoder always consumes
exactly 4 bytes" (R80). -/
def decode (e : Endian) : List Byte → Except Reject (Instr × List Byte)
  | b0 :: b1 :: b2 :: b3 :: rest =>
    match decodeWord (wordOfBytes e b0 b1 b2 b3) with
    | .ok i => .ok (i, rest)
    | .error r => .error r
  | _ => .error .truncated

/-! ### The encoder -/

/-- R-type layout with opcode 000000 (R82). -/
def encodeR (rs rt rd sa : BitVec 5) (funct : BitVec 6) : Word :=
  0#6 ++ rs ++ rt ++ rd ++ sa ++ funct

/-- I-type layout (R83). -/
def encodeI (opcode : BitVec 6) (rs rt : BitVec 5) (imm : Imm) : Word :=
  opcode ++ rs ++ rt ++ imm

/-- J-type layout (R84). -/
def encodeJ (opcode : BitVec 6) (target : Target) : Word :=
  opcode ++ target

/-- Coprocessor layout (R85). -/
def encodeCop (opcode : BitVec 6) (fmt ft fs fd : BitVec 5) (funct : BitVec 6) : Word :=
  opcode ++ fmt ++ ft ++ fs ++ fd ++ funct

/-- The word of an instruction (R94 to R99), unused fields zero (R87). -/
def encode : Instr → Word
  | .sll rd rt sa => encodeR 0 rt rd sa 0x00
  | .srl rd rt sa => encodeR 0 rt rd sa 0x02
  | .sra rd rt sa => encodeR 0 rt rd sa 0x03
  | .sllv rd rt rs => encodeR rs rt rd 0 0x04
  | .srlv rd rt rs => encodeR rs rt rd 0 0x06
  | .srav rd rt rs => encodeR rs rt rd 0 0x07
  | .jr rs => encodeR rs 0 0 0 0x08
  | .jalr rd rs => encodeR rs 0 rd 0 0x09
  | .syscall => encodeR 0 0 0 0 0x0C
  | .brk => encodeR 0 0 0 0 0x0D
  | .mfhi rd => encodeR 0 0 rd 0 0x10
  | .mthi rs => encodeR rs 0 0 0 0x11
  | .mflo rd => encodeR 0 0 rd 0 0x12
  | .mtlo rs => encodeR rs 0 0 0 0x13
  | .mult rs rt => encodeR rs rt 0 0 0x18
  | .multu rs rt => encodeR rs rt 0 0 0x19
  | .div rs rt => encodeR rs rt 0 0 0x1A
  | .divu rs rt => encodeR rs rt 0 0 0x1B
  | .add rd rs rt => encodeR rs rt rd 0 0x20
  | .addu rd rs rt => encodeR rs rt rd 0 0x21
  | .sub rd rs rt => encodeR rs rt rd 0 0x22
  | .subu rd rs rt => encodeR rs rt rd 0 0x23
  | .and rd rs rt => encodeR rs rt rd 0 0x24
  | .or rd rs rt => encodeR rs rt rd 0 0x25
  | .xor rd rs rt => encodeR rs rt rd 0 0x26
  | .nor rd rs rt => encodeR rs rt rd 0 0x27
  | .slt rd rs rt => encodeR rs rt rd 0 0x2A
  | .sltu rd rs rt => encodeR rs rt rd 0 0x2B
  | .bltz rs imm => encodeI 0x01 rs 0x00 imm
  | .bgez rs imm => encodeI 0x01 rs 0x01 imm
  | .beq rs rt imm => encodeI 0x04 rs rt imm
  | .bne rs rt imm => encodeI 0x05 rs rt imm
  | .blez rs imm => encodeI 0x06 rs 0x00 imm
  | .bgtz rs imm => encodeI 0x07 rs 0x00 imm
  | .addi rt rs imm => encodeI 0x08 rs rt imm
  | .addiu rt rs imm => encodeI 0x09 rs rt imm
  | .slti rt rs imm => encodeI 0x0A rs rt imm
  | .sltiu rt rs imm => encodeI 0x0B rs rt imm
  | .andi rt rs imm => encodeI 0x0C rs rt imm
  | .ori rt rs imm => encodeI 0x0D rs rt imm
  | .xori rt rs imm => encodeI 0x0E rs rt imm
  | .lui rt imm => encodeI 0x0F 0 rt imm
  | .lb rt imm rs => encodeI 0x20 rs rt imm
  | .lh rt imm rs => encodeI 0x21 rs rt imm
  | .lw rt imm rs => encodeI 0x23 rs rt imm
  | .lbu rt imm rs => encodeI 0x24 rs rt imm
  | .lhu rt imm rs => encodeI 0x25 rs rt imm
  | .sb rt imm rs => encodeI 0x28 rs rt imm
  | .sh rt imm rs => encodeI 0x29 rs rt imm
  | .sw rt imm rs => encodeI 0x2B rs rt imm
  | .lwc1 ft imm rs => encodeI 0x31 rs ft imm
  | .swc1 ft imm rs => encodeI 0x39 rs ft imm
  | .j target => encodeJ 0x02 target
  | .jal target => encodeJ 0x03 target
  | .mfc0 rt rd => encodeCop 0x10 0x00 rt rd 0 0
  | .mfc1 rt fs => encodeCop 0x11 0x00 rt fs 0 0
  | .mtc1 rt fs => encodeCop 0x11 0x04 rt fs 0 0
  | .addS fd fs ft => encodeCop 0x11 0x10 ft fs fd 0x00
  | .subS fd fs ft => encodeCop 0x11 0x10 ft fs fd 0x01
  | .mulS fd fs ft => encodeCop 0x11 0x10 ft fs fd 0x02
  | .divS fd fs ft => encodeCop 0x11 0x10 ft fs fd 0x03
  | .movS fd fs => encodeCop 0x11 0x10 0 fs fd 0x06
  | .cvtSW fd fs => encodeCop 0x11 0x14 0 fs fd 0x20
  | .cvtWS fd fs => encodeCop 0x11 0x10 0 fs fd 0x24

/-- The four bytes of a word in address order (spec/20_memory.md R57 with n = 4). -/
def bytesOfWord (e : Endian) (w : Word) : List Byte :=
  match e with
  | .little => [w.extractLsb' 0 8, w.extractLsb' 8 8, w.extractLsb' 16 8, w.extractLsb' 24 8]
  | .big => [w.extractLsb' 24 8, w.extractLsb' 16 8, w.extractLsb' 8 8, w.extractLsb' 0 8]

/-- The instruction the decoder reads from the word whose bits the opcode table numbers `w`. Every row
of the table has `nbits = 32`; the word is laid out as memory holds it and given to `decode`. -/
def decodeTableWord (nbits w : Nat) : Option Instr :=
  match decode .little (bytesOfWord .little (BitVec.ofNat 32 (w % 2 ^ nbits))) with
  | .ok (i, _) => some i
  | .error _ => none

/-! ### The mask and match columns of spec/opcode_table.json -/

/-- A row of the opcode table: a word is the row's instruction when `word & mask = pattern`. -/
structure EncodingRow where
  mnemonic : String
  mask : Word
  pattern : Word
deriving DecidableEq, Repr

/-- `word & mask = match` (spec/00_scope.md R14). -/
def EncodingRow.covers (r : EncodingRow) (w : Word) : Bool := w &&& r.mask == r.pattern

/-- The R-type rows. -/
def opcodeTableR : List EncodingRow :=
  [⟨"sll", 0xFFE0003F, 0x00000000⟩, ⟨"srl", 0xFFE0003F, 0x00000002⟩,
   ⟨"sra", 0xFFE0003F, 0x00000003⟩, ⟨"sllv", 0xFC0007FF, 0x00000004⟩,
   ⟨"srlv", 0xFC0007FF, 0x00000006⟩, ⟨"srav", 0xFC0007FF, 0x00000007⟩,
   ⟨"jr", 0xFC1FFFFF, 0x00000008⟩, ⟨"jalr", 0xFC1F07FF, 0x00000009⟩,
   ⟨"syscall", 0xFFFFFFFF, 0x0000000C⟩, ⟨"break", 0xFFFFFFFF, 0x0000000D⟩,
   ⟨"mfhi", 0xFFFF07FF, 0x00000010⟩, ⟨"mthi", 0xFC1FFFFF, 0x00000011⟩,
   ⟨"mflo", 0xFFFF07FF, 0x00000012⟩, ⟨"mtlo", 0xFC1FFFFF, 0x00000013⟩,
   ⟨"mult", 0xFC00FFFF, 0x00000018⟩, ⟨"multu", 0xFC00FFFF, 0x00000019⟩,
   ⟨"div", 0xFC00FFFF, 0x0000001A⟩, ⟨"divu", 0xFC00FFFF, 0x0000001B⟩,
   ⟨"add", 0xFC0007FF, 0x00000020⟩, ⟨"addu", 0xFC0007FF, 0x00000021⟩,
   ⟨"sub", 0xFC0007FF, 0x00000022⟩, ⟨"subu", 0xFC0007FF, 0x00000023⟩,
   ⟨"and", 0xFC0007FF, 0x00000024⟩, ⟨"or", 0xFC0007FF, 0x00000025⟩,
   ⟨"xor", 0xFC0007FF, 0x00000026⟩, ⟨"nor", 0xFC0007FF, 0x00000027⟩,
   ⟨"slt", 0xFC0007FF, 0x0000002A⟩, ⟨"sltu", 0xFC0007FF, 0x0000002B⟩]

/-- The I-type rows. -/
def opcodeTableI : List EncodingRow :=
  [⟨"bltz", 0xFC1F0000, 0x04000000⟩, ⟨"bgez", 0xFC1F0000, 0x04010000⟩,
   ⟨"beq", 0xFC000000, 0x10000000⟩, ⟨"bne", 0xFC000000, 0x14000000⟩,
   ⟨"blez", 0xFC1F0000, 0x18000000⟩, ⟨"bgtz", 0xFC1F0000, 0x1C000000⟩,
   ⟨"addi", 0xFC000000, 0x20000000⟩, ⟨"addiu", 0xFC000000, 0x24000000⟩,
   ⟨"slti", 0xFC000000, 0x28000000⟩, ⟨"sltiu", 0xFC000000, 0x2C000000⟩,
   ⟨"andi", 0xFC000000, 0x30000000⟩, ⟨"ori", 0xFC000000, 0x34000000⟩,
   ⟨"xori", 0xFC000000, 0x38000000⟩, ⟨"lui", 0xFFE00000, 0x3C000000⟩,
   ⟨"lb", 0xFC000000, 0x80000000⟩, ⟨"lh", 0xFC000000, 0x84000000⟩,
   ⟨"lw", 0xFC000000, 0x8C000000⟩, ⟨"lbu", 0xFC000000, 0x90000000⟩,
   ⟨"lhu", 0xFC000000, 0x94000000⟩, ⟨"sb", 0xFC000000, 0xA0000000⟩,
   ⟨"sh", 0xFC000000, 0xA4000000⟩, ⟨"sw", 0xFC000000, 0xAC000000⟩,
   ⟨"lwc1", 0xFC000000, 0xC4000000⟩, ⟨"swc1", 0xFC000000, 0xE4000000⟩]

/-- The J-type and coprocessor rows. -/
def opcodeTableJC : List EncodingRow :=
  [⟨"j", 0xFC000000, 0x08000000⟩, ⟨"jal", 0xFC000000, 0x0C000000⟩,
   ⟨"mfc0", 0xFFE007FF, 0x40000000⟩, ⟨"mfc1", 0xFFE007FF, 0x44000000⟩,
   ⟨"mtc1", 0xFFE007FF, 0x44800000⟩, ⟨"add.s", 0xFFE0003F, 0x46000000⟩,
   ⟨"sub.s", 0xFFE0003F, 0x46000001⟩, ⟨"mul.s", 0xFFE0003F, 0x46000002⟩,
   ⟨"div.s", 0xFFE0003F, 0x46000003⟩, ⟨"mov.s", 0xFFFF003F, 0x46000006⟩,
   ⟨"cvt.s.w", 0xFFFF003F, 0x46800020⟩, ⟨"cvt.w.s", 0xFFFF003F, 0x46000024⟩]

/-- The 64 rows of spec/opcode_table.json. -/
def opcodeTable : List EncodingRow := opcodeTableR ++ opcodeTableI ++ opcodeTableJC

end Sys2Proof
end

