-- ==== Sys2Proof/Machine/State.lean ====
section
/-! DEFINITION. The state of the machine (spec/10_state.md R20), its exceptions (spec/60_exceptions.md
R281), what ends a run, and reset (R35, spec/70_reset_and_hazards.md R320).

State is plain data. Registers and memory are read and written only through the accessors of
Machine/Ops.lean. -/

namespace Sys2Proof.Machine

/-- What an access is for: the `kind` of `AddressError` and `BusError` (spec/60_exceptions.md R281). -/
inductive AccessKind where
  | fetch
  | load
  | store
deriving DecidableEq, Repr

/-- The synchronous exceptions `E(info)` with the `info` they record (spec/60_exceptions.md R281). -/
inductive Exception where
  /-- `AddressError(kind, a)`: a misaligned access (R288). -/
  | addressError (kind : AccessKind) (a : Word)
  /-- `BusError(kind, a)`: an unmapped byte, a store into `text`, a fetch outside `text` (R289). -/
  | busError (kind : AccessKind) (a : Word)
  /-- `ReservedInstruction(w)`: the word `w` has no meaning (R286). -/
  | reservedInstruction (w : Word)
  /-- `IntegerOverflow()` of `add addi sub` (R287). -/
  | integerOverflow
  /-- `SystemCall()` of `syscall` (R291). -/
  | systemCall
  /-- `Breakpoint()` of `break` (R291). -/
  | breakpoint
deriving DecidableEq, Repr

/-- The run status: `running` or `fault(E, pc, info)` (spec/60_exceptions.md R283); `info` is the
exception's argument. -/
inductive Status where
  | running
  | fault (e : Exception) (pc : Word)
deriving DecidableEq, Repr

/-- Memory: address and byte pairs, addresses strictly rising, no byte equal to what an unlisted
address reads as (`Memory.wf` in Machine/Ops.lean). -/
abbrev Memory := List Host.Cell

/-- The complete state (spec/10_state.md R20), with the launch parameters it runs under and the
counter of draws. -/
structure State where
  /-- general registers (R21); read and written through `readGpr`, `writeGpr` -/
  gpr : Vector Word 32
  /-- program counter (R25) -/
  pc : Word
  /-- HI (R27) -/
  hi : Word
  /-- LO (R27) -/
  lo : Word
  /-- floating-point registers (R28) -/
  fpr : Vector Word 32
  /-- coprocessor-0 registers, read only (R31) -/
  cp0 : Vector Word 32
  /-- memory (spec/20_memory.md R50) -/
  mem : Memory
  /-- run status (spec/60_exceptions.md R283) -/
  status : Status
  /-- pending target, only when `DELAY_SLOTS = true` (spec/45_itype_branch.md R202) -/
  delay : Option Word
  /-- the launch parameters, fixed for a run (spec/00_scope.md R6) -/
  cfg : Config
  /-- the model's own: how many draws `any32()` were taken (log 10) -/
  draws : Nat
deriving DecidableEq, Repr

/-- Why a step stops. -/
inductive Fault where
  /-- `step`, when the status is `fault(e, pc, info)`: "A machine whose `status` is a fault takes no
  further step" (spec/60_exceptions.md R283). Safe: the spec defines no step here (U24). -/
  | terminal (e : Exception) (pc : Word)
deriving DecidableEq, Repr

/-- Why a step has no meaning. -/
inductive Refusal where
  /-- `exec`, for an instruction that has no meaning yet; every instruction has one, so nothing raises
  it. Safe. -/
  | notModelled (mnemonic : String)
deriving DecidableEq, Repr

/-- The outcome of one step of this machine. -/
abbrev Result := Host.Outcome State Fault Refusal

/-! ### Reset -/

/-- What a launch supplies (spec/60_exceptions.md R307), initial values of the registers that reset
leaves unspecified among it. -/
structure Launch where
  /-- `ENDIAN`, `DELAY_SLOTS`, `mapped`, `text` -/
  cfg : Config
  /-- `RESET_PC` (decision D19) -/
  resetPc : Word
  /-- the program at `text` and every other byte -/
  mem : Memory
  /-- `cp0_init` (decision D13) -/
  cp0Init : Vector Word 32
  /-- the values the unspecified registers `x[1..31]` happen to hold; entry 0 is not used -/
  gpr : Vector Word 32
  /-- the value `HI` happens to hold -/
  hi : Word
  /-- the value `LO` happens to hold -/
  lo : Word
  /-- the values the registers `f[0..31]` happen to hold -/
  fpr : Vector Word 32
deriving DecidableEq, Repr

/-- The state after reset under a launch (spec/10_state.md R35, spec/70_reset_and_hazards.md R320). -/
def State.ofLaunch (l : Launch) : State :=
  { gpr := l.gpr.set 0 0#32
    pc := l.resetPc
    hi := l.hi
    lo := l.lo
    fpr := l.fpr
    cp0 := l.cp0Init
    mem := l.mem
    status := .running
    delay := none
    cfg := l.cfg
    draws := 0 }

/-- The value the model names for every register R35 leaves unspecified: not 0, since a model must
treat such a read "never as zero" (spec/70_reset_and_hazards.md R321; DESIGN CHOICE, log 8). -/
def unspecifiedWord : Word := 0x2BADB0B0

/-- The launch of `State.reset`: little-endian (log 2), no delay slots (log 3), `RESET_PC` 0x00400000
(log 4), every address mapped and no program loaded (log 5), no memory byte listed (log 7), the
unspecified registers and `cp0_init` at `unspecifiedWord` (logs 8, 9). DESIGN CHOICE. -/
def Launch.default : Launch :=
  { cfg :=
      { endian := .little
        delaySlots := false
        mapped := [⟨0, 2 ^ 32⟩]
        text := [] }
    resetPc := 0x00400000
    mem := []
    cp0Init := Vector.replicate 32 unspecifiedWord
    gpr := Vector.replicate 32 unspecifiedWord
    hi := unspecifiedWord
    lo := unspecifiedWord
    fpr := Vector.replicate 32 unspecifiedWord }

/-- The machine right after reset, under the default launch. -/
def State.reset : State := State.ofLaunch Launch.default

end Sys2Proof.Machine
end

