-- ==== Sys2Proof/Machine/Flags.lean ====
section
/-! DEFINITION. Conditions computed from operand values. The machine has no flag register
(spec/10_state.md R32); these are the two overflow conditions (spec/40_rtype_alu.md R131) and the
comparison results that go to a register (R132). -/

namespace Sys2Proof.Machine

/-- `add_overflows(a, b)`: `a[31] = b[31]` and `(a + b)[31] != a[31]` (R131). -/
def addOverflows (a b : Word) : Bool := a.msb == b.msb && (a + b).msb != a.msb

/-- `sub_overflows(a, b)`: `a[31] != b[31]` and `(a - b)[31] != a[31]` (R131). -/
def subOverflows (a b : Word) : Bool := a.msb != b.msb && (a - b).msb != a.msb

/-- "exactly `0x00000001` or `0x00000000`" (R132). -/
def boolWord (c : Bool) : Word := if c then 1#32 else 0#32

/-- `signed(a) < signed(b)` as a word (R128). -/
def setLessSigned (a b : Word) : Word := boolWord (a.slt b)

/-- `unsigned(a) < unsigned(b)` as a word (R129). -/
def setLessUnsigned (a b : Word) : Word := boolWord (a.ult b)

end Sys2Proof.Machine
end

