-- ==== Sys2Proof/Machine/Operands.lean ====
section
/-! DEFINITION. Operand forms (spec/30_encoding.md R89): what an instruction computes from its fields,
its registers' values and the address `pc`, without changing anything. -/

namespace Sys2Proof.Machine

/-- `sext_32(imm)` of `addi addiu slti sltiu` and of displacements (R88, R89). -/
def immSigned (imm : Imm) : Word := imm.signExtend 32

/-- `zext_32(imm)` of `andi ori xori` (R89). -/
def immZero (imm : Imm) : Word := imm.setWidth 32

/-- `imm || 0^16` of `lui` (R89, spec/44_itype_alu.md R187). -/
def immUpper (imm : Imm) : Word := imm ++ 0#16

/-- The shift count of `sllv srlv srav`, the low five bits of `x[rs]` (spec/41_rtype_shift.md R146). -/
def variableCount (x : Word) : Shamt := x.extractLsb' 0 5

/-- `addr = x[rs] + sext_32(imm)`, modulo 2^32 (spec/46_itype_loadstore.md R215). -/
def displaced (base : Word) (imm : Imm) : Word := base + immSigned imm

/-- `(pc + 4) + (sext_32(imm) << 2)` for a branch at `pc` (spec/45_itype_branch.md R200). -/
def branchTarget (pc : Word) (imm : Imm) : Word := (pc + 4#32) + (immSigned imm <<< 2)

/-- `(pc + 4)[31:28] || target || 00` for a jump at `pc` (spec/47_jtype.md R240). -/
def jumpTarget (pc : Word) (target : Target) : Word :=
  (pc + 4#32).extractLsb' 28 4 ++ target ++ 0#2

/-- The floating-point register number is odd (spec/48_coprocessor.md R253). -/
def oddFpr (f : FReg) : Bool := f.getLsbD 0

/-- A byte widened by sign: `sext_32` (spec/20_memory.md R63). -/
def byteSigned (b : Byte) : Word := b.signExtend 32

/-- A byte widened by zeros: `zext_32` (R63). -/
def byteZero (b : Byte) : Word := b.setWidth 32

/-- A halfword widened by sign: `sext_32` (R63). -/
def halfSigned (h : Half) : Word := h.signExtend 32

/-- A halfword widened by zeros: `zext_32` (R63). -/
def halfZero (h : Half) : Word := h.setWidth 32

/-- `LB(x)`, the least significant 8 bits (spec/00_scope.md R10). -/
def lowByte (x : Word) : Byte := x.extractLsb' 0 8

/-- `LH(x)`, the least significant 16 bits (spec/00_scope.md R10). -/
def lowHalf (x : Word) : Half := x.extractLsb' 0 16

end Sys2Proof.Machine
end

