-- ==== Sys2Proof/Machine/Ops.lean ====
section
/-! DEFINITION. The named operations over registers, memory and the program counter, taking an
exception, and fetching (spec/00_scope.md R12, R14). -/

namespace Sys2Proof.Machine

/-! ### Registers (spec/10_state.md R21, R28, R31) -/

/-- `x[i]`: "`x[0]` reads `0x00000000` in every instruction" (R21). -/
def State.readGpr (s : State) (i : Reg) : Word :=
  if i = 0#5 then 0#32 else s.gpr[i.toNat]'i.isLt

/-- `x[i] <- v`: "`x[0] <- v` changes nothing and raises nothing" (R21). -/
def State.writeGpr (s : State) (i : Reg) (v : Word) : State :=
  { s with gpr := if i = 0#5 then s.gpr else s.gpr.set i.toNat v i.isLt }

/-- `f[i]` (R28). -/
def State.readFpr (s : State) (i : FReg) : Word := s.fpr[i.toNat]'i.isLt

/-- `f[i] <- v` (R28). -/
def State.writeFpr (s : State) (i : FReg) (v : Word) : State :=
  { s with fpr := s.fpr.set i.toNat v i.isLt }

/-- `cp0[i]` (R31). -/
def State.readCp0 (s : State) (i : CReg) : Word := s.cp0[i.toNat]'i.isLt

/-- `HI <- v` (R27). -/
def State.writeHi (s : State) (v : Word) : State := { s with hi := v }

/-- `LO <- v` (R27). -/
def State.writeLo (s : State) (v : Word) : State := { s with lo := v }

/-! ### Memory as canonical data (spec/20_memory.md R50) -/

/-- What a byte that nothing has written and the launch has not listed reads as (DESIGN CHOICE,
log 7). -/
def unlistedByte : Byte := 0

/-- The byte at an address. -/
def Memory.read : Memory → Nat → Byte
  | [], _ => unlistedByte
  | (k, w) :: m, a => if k = a then w else Memory.read m a

/-- The memory with the byte at `a` set to `v`, in canonical form if `m` is. -/
def Memory.write : Memory → Nat → Byte → Memory
  | [], a, v => if v = unlistedByte then [] else [(a, v)]
  | (k, w) :: m, a, v =>
    if a < k then (if v = unlistedByte then (k, w) :: m else (a, v) :: (k, w) :: m)
    else if a = k then (if v = unlistedByte then m else (a, v) :: m)
    else (k, w) :: Memory.write m a v

/-- The canonical form above a bound: every address is at least `lo`, addresses rise strictly and stay
below 2^32, and no byte is the one an unlisted address reads as. -/
def Memory.wfFrom : Nat → Memory → Bool
  | _, [] => true
  | lo, (k, w) :: m => decide (lo ≤ k ∧ k < 2 ^ 32 ∧ w ≠ unlistedByte) && Memory.wfFrom (k + 1) m

/-- The canonical form of memory. -/
def Memory.wf (m : Memory) : Bool := Memory.wfFrom 0 m

/-! ### Accesses (spec/20_memory.md R52 to R63) -/

/-- The byte at an address. -/
def State.byteAt (s : State) (a : Word) : Byte := Memory.read s.mem a.toNat

/-- Sets one byte. -/
def State.setByte (s : State) (a : Word) (v : Byte) : State :=
  { s with mem := Memory.write s.mem a.toNat v }

/-- `MemRead(a, 1)` (R56). -/
def State.memRead8 (s : State) (a : Word) : Byte := s.byteAt a

/-- `MemRead(a, 2)` (R56). -/
def State.memRead16 (s : State) (a : Word) : Half :=
  match s.cfg.endian with
  | .little => s.byteAt (a + 1#32) ++ s.byteAt a
  | .big => s.byteAt a ++ s.byteAt (a + 1#32)

/-- `MemRead(a, 4)` (R56). -/
def State.memRead32 (s : State) (a : Word) : Word :=
  wordOfBytes s.cfg.endian (s.byteAt a) (s.byteAt (a + 1#32)) (s.byteAt (a + 2#32)) (s.byteAt (a + 3#32))

/-- `MemWrite(a, 1, v)` (R57). -/
def State.memWrite8 (s : State) (a : Word) (v : Byte) : State := s.setByte a v

/-- `MemWrite(a, 2, v)` (R57). -/
def State.memWrite16 (s : State) (a : Word) (v : Half) : State :=
  match s.cfg.endian with
  | .little => (s.setByte a (v.extractLsb' 0 8)).setByte (a + 1#32) (v.extractLsb' 8 8)
  | .big => (s.setByte a (v.extractLsb' 8 8)).setByte (a + 1#32) (v.extractLsb' 0 8)

/-- `MemWrite(a, 4, v)` (R57). -/
def State.memWrite32 (s : State) (a : Word) (v : Word) : State :=
  match s.cfg.endian with
  | .little =>
    (((s.setByte a (v.extractLsb' 0 8)).setByte (a + 1#32) (v.extractLsb' 8 8)).setByte
      (a + 2#32) (v.extractLsb' 16 8)).setByte (a + 3#32) (v.extractLsb' 24 8)
  | .big =>
    (((s.setByte a (v.extractLsb' 24 8)).setByte (a + 1#32) (v.extractLsb' 16 8)).setByte
      (a + 2#32) (v.extractLsb' 8 8)).setByte (a + 3#32) (v.extractLsb' 0 8)

/-! ### Which accesses exist -/

/-- The access sizes n = 1, 2, 4 (R52). -/
inductive Width where
  | byte
  | half
  | word
deriving DecidableEq, Repr

/-- n of an access. -/
def Width.bytes : Width → Nat
  | .byte => 1
  | .half => 2
  | .word => 4

/-- The addresses of the bytes of an access. -/
def Width.span (w : Width) (a : Word) : List Word :=
  (List.range w.bytes).map fun k => a + BitVec.ofNat 32 k

/-- "a must be divisible by n" (R52). -/
def Width.aligned (w : Width) (a : Word) : Bool := a.toNat % w.bytes == 0

/-- The address lies in one of the ranges. -/
def inRegions (rs : List Region) (a : Nat) : Bool :=
  rs.any fun r => decide (r.base ≤ a ∧ a < r.base + r.size)

/-- `mapped(a)` (R62). -/
def State.isMapped (s : State) (a : Word) : Bool := inRegions s.cfg.mapped a.toNat

/-- The byte at `a` is one of the program's: the word that holds it is in `text` (R70, decision D18:
`text` is a "set of word addresses"; log 6). -/
def State.inText (s : State) (a : Word) : Bool := inRegions s.cfg.text (a.toNat / 4 * 4)

/-- Some byte of the access is unmapped. -/
def State.spanUnmapped (s : State) (w : Width) (a : Word) : Bool :=
  (w.span a).any fun b => !s.isMapped b

/-- Some byte of the access lies in `text`. -/
def State.spanInText (s : State) (w : Width) (a : Word) : Bool :=
  (w.span a).any fun b => s.inText b

/-- The checks of a load, in order (spec/46_itype_loadstore.md R216). -/
def State.checkLoad (s : State) (w : Width) (a : Word) : Option Exception :=
  if !w.aligned a then some (.addressError .load a)
  else if s.spanUnmapped w a then some (.busError .load a)
  else none

/-- The checks of a store, in order (spec/46_itype_loadstore.md R216). -/
def State.checkStore (s : State) (w : Width) (a : Word) : Option Exception :=
  if !w.aligned a then some (.addressError .store a)
  else if s.spanUnmapped w a || s.spanInText w a then some (.busError .store a)
  else none

/-- The checks of an instruction fetch, in order (spec/00_scope.md R14). -/
def State.checkFetch (s : State) : Option Exception :=
  if !Width.word.aligned s.pc then some (.addressError .fetch s.pc)
  else if s.spanUnmapped .word s.pc || !s.inText s.pc then some (.busError .fetch s.pc)
  else none

/-! ### Taking an exception (spec/60_exceptions.md R283) -/

/-- `raise E(info)`: "every write of the instruction is cancelled ... and `status <- fault(E, pc,
info)`", "and nothing else". There is no return from it (R293). -/
def State.raise (s : State) (e : Exception) : Result :=
  .next { s with status := .fault e s.pc }

/-! ### The program counter (spec/10_state.md R26, spec/45_itype_branch.md R202) -/

/-- The target a taken transfer left for this step, when the machine has delay slots (R202; log 14). -/
def State.pendingTarget (s : State) : Option Word := if s.cfg.delaySlots then s.delay else none

/-- `if d != none then d else pc + 4` (R202); `pc + 4` modulo 2^32 without delay slots (R26). -/
def State.nextPc (s : State) : Word := s.pendingTarget.getD (s.pc + 4#32)

/-- The end of an instruction that assigns no pc. -/
def State.advance (s : State) : State := { s with pc := s.nextPc, delay := none }

/-- `pc <- target`: at once without delay slots, `delay <- target` with them (R202). -/
def State.transferTo (s : State) (target : Word) : State :=
  { s with
    pc := if s.cfg.delaySlots then s.nextPc else target
    delay := if s.cfg.delaySlots then some target else none }

/-- The link value of `jal` and `jalr`: `pc + 4`, or `pc + 8` with delay slots (R202). -/
def State.linkValue (s : State) : Word := if s.cfg.delaySlots then s.pc + 8#32 else s.pc + 4#32

/-! ### Shapes of instructions -/

/-- An instruction that raises nothing: its effect, then the next pc. -/
def State.finish (s : State) : Result := .next s.advance

/-- An instruction that raises `e` when `c` holds (spec/40_rtype_alu.md R131). -/
def State.checked (s : State) (c : Bool) (e : Exception) (effect : State → State) : Result :=
  if c then s.raise e else (effect s).finish

/-- A load: checks, then its effect (spec/46_itype_loadstore.md R216). -/
def State.load (s : State) (w : Width) (a : Word) (effect : State → State) : Result :=
  match s.checkLoad w a with
  | some e => s.raise e
  | none => (effect s).finish

/-- A store: checks, then its effect (spec/46_itype_loadstore.md R216). -/
def State.store (s : State) (w : Width) (a : Word) (effect : State → State) : Result :=
  match s.checkStore w a with
  | some e => s.raise e
  | none => (effect s).finish

/-- One of the ten control-transfer instructions, whose word is `ir`: in a delay slot it raises
`ReservedInstruction(IR)` (spec/45_itype_branch.md R202). -/
def State.control (s : State) (ir : Word) (effect : State → State) : Result :=
  if s.pendingTarget.isSome then s.raise (.reservedInstruction ir) else .next (effect s)

/-- A branch, taken to its target or falling through (spec/45_itype_branch.md R201). -/
def State.branch (s : State) (ir : Word) (taken : Bool) (imm : Imm) : Result :=
  s.control ir fun s => if taken then s.transferTo (branchTarget s.pc imm) else s.advance

/-! ### Fetching (spec/00_scope.md R14) -/

/-- The instruction at `pc`, or the exception its fetch or decoding raises, in the order of R14. -/
def State.fetch (s : State) : Except Exception Instr :=
  match s.checkFetch with
  | some e => .error e
  | none =>
    match decodeWord (s.memRead32 s.pc) with
    | .ok i => .ok i
    | .error _ => .error (.reservedInstruction (s.memRead32 s.pc))

/-- `s` with the word stored at `pc` in the machine's byte order (spec/20_memory.md R55), that word's
four bytes mapped and in `text`: what a launch that loads the word does. -/
def State.loadWordAtPc (s : State) (w : Word) : State :=
  let t := s.memWrite32 s.pc w
  { t with cfg :=
      { t.cfg with
        mapped := if t.spanUnmapped .word t.pc then ⟨t.pc.toNat, 4⟩ :: t.cfg.mapped else t.cfg.mapped
        text := if t.inText t.pc then t.cfg.text else ⟨t.pc.toNat / 4 * 4, 4⟩ :: t.cfg.text } }

end Sys2Proof.Machine
end

