-- ==== Sys2Proof/Machine/Alu.lean ====
section
/-! DEFINITION. R-type arithmetic, logical and comparison instructions (spec/40_rtype_alu.md).
Both sources are read before the destination is written (R130). -/

namespace Sys2Proof.Machine

/-- `add rd, rs, rt` (R120): `IntegerOverflow` before any write, else `x[rd] <- x[rs] + x[rt]`. -/
def execAdd (rd rs rt : Reg) (s : State) : Result :=
  let a := s.readGpr rs
  let b := s.readGpr rt
  s.checked (addOverflows a b) .integerOverflow fun s => s.writeGpr rd (a + b)

/-- `addu rd, rs, rt` (R121): modulo 2^32, no overflow check. -/
def execAddu (rd rs rt : Reg) (s : State) : Result :=
  (s.writeGpr rd (s.readGpr rs + s.readGpr rt)).finish

/-- `sub rd, rs, rt` (R122): `rs` minus `rt`, `IntegerOverflow` before any write. -/
def execSub (rd rs rt : Reg) (s : State) : Result :=
  let a := s.readGpr rs
  let b := s.readGpr rt
  s.checked (subOverflows a b) .integerOverflow fun s => s.writeGpr rd (a - b)

/-- `subu rd, rs, rt` (R123): modulo 2^32, no overflow check. -/
def execSubu (rd rs rt : Reg) (s : State) : Result :=
  (s.writeGpr rd (s.readGpr rs - s.readGpr rt)).finish

/-- `and rd, rs, rt` (R124): bitwise. -/
def execAnd (rd rs rt : Reg) (s : State) : Result :=
  (s.writeGpr rd (s.readGpr rs &&& s.readGpr rt)).finish

/-- `or rd, rs, rt` (R125): bitwise. -/
def execOr (rd rs rt : Reg) (s : State) : Result :=
  (s.writeGpr rd (s.readGpr rs ||| s.readGpr rt)).finish

/-- `xor rd, rs, rt` (R126): bitwise. -/
def execXor (rd rs rt : Reg) (s : State) : Result :=
  (s.writeGpr rd (s.readGpr rs ^^^ s.readGpr rt)).finish

/-- `nor rd, rs, rt` (R127): complement of the bitwise or. -/
def execNor (rd rs rt : Reg) (s : State) : Result :=
  (s.writeGpr rd (~~~(s.readGpr rs ||| s.readGpr rt))).finish

/-- `slt rd, rs, rt` (R128): signed comparison. -/
def execSlt (rd rs rt : Reg) (s : State) : Result :=
  (s.writeGpr rd (setLessSigned (s.readGpr rs) (s.readGpr rt))).finish

/-- `sltu rd, rs, rt` (R129): unsigned comparison. -/
def execSltu (rd rs rt : Reg) (s : State) : Result :=
  (s.writeGpr rd (setLessUnsigned (s.readGpr rs) (s.readGpr rt))).finish


end Sys2Proof.Machine
end

