-- ==== Sys2Proof/Machine/AluImm.lean ====
section
/-! DEFINITION. I-type arithmetic, logical, comparison and load-upper instructions (spec/44_itype_alu.md).
`x[rs]` is read before `x[rt]` is written (R188). -/

namespace Sys2Proof.Machine

/-- `addi rt, rs, imm` (R180): `IntegerOverflow` before any write. -/
def execAddi (rt rs : Reg) (imm : Imm) (s : State) : Result :=
  let a := s.readGpr rs
  let b := immSigned imm
  s.checked (addOverflows a b) .integerOverflow fun s => s.writeGpr rt (a + b)

/-- `addiu rt, rs, imm` (R181): sign-extended immediate, modulo 2^32. -/
def execAddiu (rt rs : Reg) (imm : Imm) (s : State) : Result :=
  (s.writeGpr rt (s.readGpr rs + immSigned imm)).finish

/-- `slti rt, rs, imm` (R182): signed comparison with the sign-extended immediate. -/
def execSlti (rt rs : Reg) (imm : Imm) (s : State) : Result :=
  (s.writeGpr rt (setLessSigned (s.readGpr rs) (immSigned imm))).finish

/-- `sltiu rt, rs, imm` (R183): unsigned comparison with the sign-extended immediate. -/
def execSltiu (rt rs : Reg) (imm : Imm) (s : State) : Result :=
  (s.writeGpr rt (setLessUnsigned (s.readGpr rs) (immSigned imm))).finish

/-- `andi rt, rs, imm` (R184): zero-extended immediate. -/
def execAndi (rt rs : Reg) (imm : Imm) (s : State) : Result :=
  (s.writeGpr rt (s.readGpr rs &&& immZero imm)).finish

/-- `ori rt, rs, imm` (R185): zero-extended immediate. -/
def execOri (rt rs : Reg) (imm : Imm) (s : State) : Result :=
  (s.writeGpr rt (s.readGpr rs ||| immZero imm)).finish

/-- `xori rt, rs, imm` (R186): zero-extended immediate. -/
def execXori (rt rs : Reg) (imm : Imm) (s : State) : Result :=
  (s.writeGpr rt (s.readGpr rs ^^^ immZero imm)).finish

/-- `lui rt, imm` (R187): `imm || 0^16`. -/
def execLui (rt : Reg) (imm : Imm) (s : State) : Result :=
  (s.writeGpr rt (immUpper imm)).finish


end Sys2Proof.Machine
end

