-- ==== Sys2Proof/Machine/Branch.lean ====
section
/-! DEFINITION. I-type conditional branches (spec/45_itype_branch.md). The condition is on the register
values before the step (R201). -/

namespace Sys2Proof.Machine

/-- `beq rs, rt, label` (R203): all 32 bits compared. -/
def execBeq (rs rt : Reg) (imm : Imm) (s : State) : Result :=
  s.branch (encode (.beq rs rt imm)) (s.readGpr rs == s.readGpr rt) imm

/-- `bne rs, rt, label` (R204): all 32 bits compared. -/
def execBne (rs rt : Reg) (imm : Imm) (s : State) : Result :=
  s.branch (encode (.bne rs rt imm)) (s.readGpr rs != s.readGpr rt) imm

/-- `blez rs, label` (R205): a signed test of `x[rs]`. -/
def execBlez (rs : Reg) (imm : Imm) (s : State) : Result :=
  s.branch (encode (.blez rs imm)) (decide ((s.readGpr rs).toInt ≤ 0)) imm

/-- `bgtz rs, label` (R206): a signed test of `x[rs]`. -/
def execBgtz (rs : Reg) (imm : Imm) (s : State) : Result :=
  s.branch (encode (.bgtz rs imm)) (decide ((s.readGpr rs).toInt > 0)) imm

/-- `bltz rs, label` (R207): a signed test of `x[rs]`. -/
def execBltz (rs : Reg) (imm : Imm) (s : State) : Result :=
  s.branch (encode (.bltz rs imm)) (decide ((s.readGpr rs).toInt < 0)) imm

/-- `bgez rs, label` (R208): a signed test of `x[rs]`. -/
def execBgez (rs : Reg) (imm : Imm) (s : State) : Result :=
  s.branch (encode (.bgez rs imm)) (decide ((s.readGpr rs).toInt ≥ 0)) imm


end Sys2Proof.Machine
end

