-- ==== Sys2Proof/Machine/Coprocessor.lean ====
section
/-! DEFINITION. Coprocessor instructions (spec/48_coprocessor.md). Sources are read before the destination
is written (R253); no other exception than R253's exists (R264). -/

namespace Sys2Proof.Machine

/-- A floating-point arithmetic, move or convert instruction, whose word is `ir`: `ReservedInstruction`
if a register field is odd, else `f[fd] <- v` (R253). -/
def State.fpResult (s : State) (ir : Word) (odd : Bool) (fd : FReg) (v : Word) : Result :=
  s.checked odd (.reservedInstruction ir) fun s => s.writeFpr fd v

/-- `mfc0 rt, rd` (R250): coprocessor 0 is always usable (decision D14). -/
def execMfc0 (rt : Reg) (rd : CReg) (s : State) : Result :=
  (s.writeGpr rt (s.readCp0 rd)).finish

/-- `mfc1 rt, fs` (R251): 32 bits copied unchanged; `fs` may be odd. -/
def execMfc1 (rt : Reg) (fs : FReg) (s : State) : Result :=
  (s.writeGpr rt (s.readFpr fs)).finish

/-- `mtc1 rt, fs` (R252): 32 bits copied unchanged; `fs` may be odd. -/
def execMtc1 (rt : Reg) (fs : FReg) (s : State) : Result :=
  (s.writeFpr fs (s.readGpr rt)).finish

/-- `add.s fd, fs, ft` (R256). -/
def execAddS (fd fs ft : FReg) (s : State) : Result :=
  s.fpResult (encode (.addS fd fs ft)) (oddFpr fd || oddFpr fs || oddFpr ft) fd
    (Config.fpAddS (s.readFpr fs) (s.readFpr ft))

/-- `sub.s fd, fs, ft` (R257). -/
def execSubS (fd fs ft : FReg) (s : State) : Result :=
  s.fpResult (encode (.subS fd fs ft)) (oddFpr fd || oddFpr fs || oddFpr ft) fd
    (Config.fpSubS (s.readFpr fs) (s.readFpr ft))

/-- `mul.s fd, fs, ft` (R258). -/
def execMulS (fd fs ft : FReg) (s : State) : Result :=
  s.fpResult (encode (.mulS fd fs ft)) (oddFpr fd || oddFpr fs || oddFpr ft) fd
    (Config.fpMulS (s.readFpr fs) (s.readFpr ft))

/-- `div.s fd, fs, ft` (R259). -/
def execDivS (fd fs ft : FReg) (s : State) : Result :=
  s.fpResult (encode (.divS fd fs ft)) (oddFpr fd || oddFpr fs || oddFpr ft) fd
    (Config.fpDivS (s.readFpr fs) (s.readFpr ft))

/-- `mov.s fd, fs` (R260): 32 bits copied unchanged. -/
def execMovS (fd fs : FReg) (s : State) : Result :=
  s.fpResult (encode (.movS fd fs)) (oddFpr fd || oddFpr fs) fd (s.readFpr fs)

/-- `cvt.s.w fd, fs` (R261). -/
def execCvtSW (fd fs : FReg) (s : State) : Result :=
  s.fpResult (encode (.cvtSW fd fs)) (oddFpr fd || oddFpr fs) fd (Config.fpCvtSW (s.readFpr fs))

/-- `cvt.w.s fd, fs` (R262). -/
def execCvtWS (fd fs : FReg) (s : State) : Result :=
  s.fpResult (encode (.cvtWS fd fs)) (oddFpr fd || oddFpr fs) fd (Config.fpCvtWS (s.readFpr fs))


end Sys2Proof.Machine
end

