-- ==== Sys2Proof/Machine/Jump.lean ====
section
/-! DEFINITION. J-type jumps (spec/47_jtype.md). -/

namespace Sys2Proof.Machine

/-- `j label` (R241). -/
def execJ (target : Target) (s : State) : Result :=
  s.control (encode (.j target)) fun s => s.transferTo (jumpTarget s.pc target)

/-- `jal label` (R242): the link goes to `x[31]`. -/
def execJal (target : Target) (s : State) : Result :=
  s.control (encode (.jal target)) fun s =>
    (s.writeGpr 31#5 s.linkValue).transferTo (jumpTarget s.pc target)


end Sys2Proof.Machine
end

