-- ==== Sys2Proof/Machine/JumpSystem.lean ====
section
/-! DEFINITION. R-type register jumps and system instructions (spec/43_rtype_jump_system.md). -/

namespace Sys2Proof.Machine

/-- `jr rs` (R170): the whole of `x[rs]` is the target. -/
def execJr (rs : Reg) (s : State) : Result :=
  s.control (encode (.jr rs)) fun s => s.transferTo (s.readGpr rs)

/-- `jalr rd, rs` (R171): `x[rs]` is read before the link is written (decision D26). -/
def execJalr (rd rs : Reg) (s : State) : Result :=
  s.control (encode (.jalr rd rs)) fun s =>
    (s.writeGpr rd s.linkValue).transferTo (s.readGpr rs)

/-- `syscall` (R172): always raises `SystemCall()`. -/
def execSyscall (s : State) : Result :=
  s.raise .systemCall

/-- `break` (R173): always raises `Breakpoint()`. -/
def execBrk (s : State) : Result :=
  s.raise .breakpoint


end Sys2Proof.Machine
end

