-- ==== Sys2Proof/Machine/LoadStore.lean ====
section
/-! DEFINITION. I-type loads and stores (spec/46_itype_loadstore.md): address, checks, access, destination,
in that order (R216). -/

namespace Sys2Proof.Machine

/-- `lb rt, imm(rs)` (R217). -/
def execLb (rt : Reg) (imm : Imm) (rs : Reg) (s : State) : Result :=
  let a := displaced (s.readGpr rs) imm
  s.load .byte a fun s => s.writeGpr rt (byteSigned (s.memRead8 a))

/-- `lbu rt, imm(rs)` (R218). -/
def execLbu (rt : Reg) (imm : Imm) (rs : Reg) (s : State) : Result :=
  let a := displaced (s.readGpr rs) imm
  s.load .byte a fun s => s.writeGpr rt (byteZero (s.memRead8 a))

/-- `lh rt, imm(rs)` (R219). -/
def execLh (rt : Reg) (imm : Imm) (rs : Reg) (s : State) : Result :=
  let a := displaced (s.readGpr rs) imm
  s.load .half a fun s => s.writeGpr rt (halfSigned (s.memRead16 a))

/-- `lhu rt, imm(rs)` (R220). -/
def execLhu (rt : Reg) (imm : Imm) (rs : Reg) (s : State) : Result :=
  let a := displaced (s.readGpr rs) imm
  s.load .half a fun s => s.writeGpr rt (halfZero (s.memRead16 a))

/-- `lw rt, imm(rs)` (R221). -/
def execLw (rt : Reg) (imm : Imm) (rs : Reg) (s : State) : Result :=
  let a := displaced (s.readGpr rs) imm
  s.load .word a fun s => s.writeGpr rt (s.memRead32 a)

/-- `sb rt, imm(rs)` (R222). -/
def execSb (rt : Reg) (imm : Imm) (rs : Reg) (s : State) : Result :=
  let a := displaced (s.readGpr rs) imm
  s.store .byte a fun s => s.memWrite8 a (lowByte (s.readGpr rt))

/-- `sh rt, imm(rs)` (R223). -/
def execSh (rt : Reg) (imm : Imm) (rs : Reg) (s : State) : Result :=
  let a := displaced (s.readGpr rs) imm
  s.store .half a fun s => s.memWrite16 a (lowHalf (s.readGpr rt))

/-- `sw rt, imm(rs)` (R224). -/
def execSw (rt : Reg) (imm : Imm) (rs : Reg) (s : State) : Result :=
  let a := displaced (s.readGpr rs) imm
  s.store .word a fun s => s.memWrite32 a (s.readGpr rt)

/-- `lwc1 ft, imm(rs)` (R225): the 32 bits are copied unchanged; any of the 32 registers. -/
def execLwc1 (ft : FReg) (imm : Imm) (rs : Reg) (s : State) : Result :=
  let a := displaced (s.readGpr rs) imm
  s.load .word a fun s => s.writeFpr ft (s.memRead32 a)

/-- `swc1 ft, imm(rs)` (R226): the 32 bits are copied unchanged; any of the 32 registers. -/
def execSwc1 (ft : FReg) (imm : Imm) (rs : Reg) (s : State) : Result :=
  let a := displaced (s.readGpr rs) imm
  s.store .word a fun s => s.memWrite32 a (s.readFpr ft)


end Sys2Proof.Machine
end

