-- ==== Sys2Proof/Machine/MulDiv.lean ====
section
/-! DEFINITION. R-type multiply, divide and HI/LO moves (spec/42_rtype_muldiv.md). None raises anything
(R158, R159). -/

namespace Sys2Proof.Machine

/-- The 64-bit value with a given integer value, modulo 2^64 (spec/42_rtype_muldiv.md R150). -/
def product64 (p : Int) : BitVec 64 := BitVec.ofInt 64 p

/-- `HI <- p[63:32]`, `LO <- p[31:0]` (R150, R151). -/
def State.writeProduct (s : State) (p : BitVec 64) : State :=
  (s.writeHi (p.extractLsb' 32 32)).writeLo (p.extractLsb' 0 32)

/-- `LO <- q`, `HI <- r` (R152, R153). -/
def State.writeQuotient (s : State) (q r : Word) : State := (s.writeLo q).writeHi r

/-- Division by zero: `LO <- any32()`, `HI <- any32()`, "two independent draws" (R159, decision D9;
log 10). -/
def State.drawQuotient (s : State) : State :=
  { s with
    lo := Config.any32 s.draws
    hi := Config.any32 (s.draws + 1)
    draws := s.draws + 2 }

/-- `mult rs, rt` (R150): the exact signed product. -/
def execMult (rs rt : Reg) (s : State) : Result :=
  (s.writeProduct (product64 ((s.readGpr rs).toInt * (s.readGpr rt).toInt))).finish

/-- `multu rs, rt` (R151): the exact unsigned product. -/
def execMultu (rs rt : Reg) (s : State) : Result :=
  (s.writeProduct (product64 ((s.readGpr rs).toNat * (s.readGpr rt).toNat : Nat))).finish

/-- `div rs, rt` (R152): the quotient rounded toward zero and its remainder; for -2^31 / -1 the quotient
truncated to 32 bits (decision D10); draws for a zero divisor. -/
def execDiv (rs rt : Reg) (s : State) : Result :=
  let a := (s.readGpr rs).toInt
  let b := (s.readGpr rt).toInt
  if b = 0 then s.drawQuotient.finish
  else
    let q := a.tdiv b
    (s.writeQuotient (BitVec.ofInt 32 q) (BitVec.ofInt 32 (a - q * b))).finish

/-- `divu rs, rt` (R153): floor quotient and remainder; draws for a zero divisor. -/
def execDivu (rs rt : Reg) (s : State) : Result :=
  let a := (s.readGpr rs).toNat
  let b := (s.readGpr rt).toNat
  if b = 0 then s.drawQuotient.finish
  else (s.writeQuotient (BitVec.ofNat 32 (a / b)) (BitVec.ofNat 32 (a - a / b * b))).finish

/-- `mfhi rd` (R154). -/
def execMfhi (rd : Reg) (s : State) : Result :=
  (s.writeGpr rd s.hi).finish

/-- `mflo rd` (R155). -/
def execMflo (rd : Reg) (s : State) : Result :=
  (s.writeGpr rd s.lo).finish

/-- `mthi rs` (R156): `LO` is unchanged. -/
def execMthi (rs : Reg) (s : State) : Result :=
  (s.writeHi (s.readGpr rs)).finish

/-- `mtlo rs` (R157): `HI` is unchanged. -/
def execMtlo (rs : Reg) (s : State) : Result :=
  (s.writeLo (s.readGpr rs)).finish


end Sys2Proof.Machine
end

