-- ==== Sys2Proof/Machine/Shift.lean ====
section
/-! DEFINITION. R-type shifts (spec/41_rtype_shift.md): the value shifted is `x[rt]`, the count is 0 to 31
(R146). -/

namespace Sys2Proof.Machine

/-- `sll rd, rt, sa` (R140). -/
def execSll (rd rt : Reg) (sa : Shamt) (s : State) : Result :=
  (s.writeGpr rd (s.readGpr rt <<< sa.toNat)).finish

/-- `srl rd, rt, sa` (R141). -/
def execSrl (rd rt : Reg) (sa : Shamt) (s : State) : Result :=
  (s.writeGpr rd (s.readGpr rt >>> sa.toNat)).finish

/-- `sra rd, rt, sa` (R142). -/
def execSra (rd rt : Reg) (sa : Shamt) (s : State) : Result :=
  (s.writeGpr rd ((s.readGpr rt).sshiftRight sa.toNat)).finish

/-- `sllv rd, rt, rs` (R143): the count is `x[rs][4:0]`. -/
def execSllv (rd rt rs : Reg) (s : State) : Result :=
  let n := variableCount (s.readGpr rs)
  (s.writeGpr rd (s.readGpr rt <<< n.toNat)).finish

/-- `srlv rd, rt, rs` (R144): the count is `x[rs][4:0]`. -/
def execSrlv (rd rt rs : Reg) (s : State) : Result :=
  let n := variableCount (s.readGpr rs)
  (s.writeGpr rd (s.readGpr rt >>> n.toNat)).finish

/-- `srav rd, rt, rs` (R145): the count is `x[rs][4:0]`. -/
def execSrav (rd rt rs : Reg) (s : State) : Result :=
  let n := variableCount (s.readGpr rs)
  (s.writeGpr rd ((s.readGpr rt).sshiftRight n.toNat)).finish


end Sys2Proof.Machine
end

