-- ==== Sys2Proof/Machine/Step.lean ====
section
/-! DEFINITION. One step of the machine (spec/00_scope.md R14), and placing one instruction where the
next step fetches. -/

namespace Sys2Proof.Machine

/-- One step (R14): a machine whose status is a fault takes no further step (spec/60_exceptions.md
R283); otherwise fetch, decode and execute. -/
def step (s : State) : Host.Outcome State Fault Refusal :=
  match s.status with
  | .fault e pc => .fault (.terminal e pc)
  | .running =>
    match s.fetch with
    | .error e => s.raise e
    | .ok i => exec i s

/-- `s` with the instruction word whose bits the opcode table numbers `w` stored at `pc`, mapped and in
`text`, so that the next step of a running machine with an aligned `pc` runs it (log 5). -/
def State.withFetchWord (s : State) (nbits w : Nat) : State :=
  s.loadWordAtPc (BitVec.ofNat 32 (w % 2 ^ nbits))

end Sys2Proof.Machine
end

