-- ==== Sys2Proof/Machine/Assembly.lean ====
section
/-! DEFINITION. Assembly text (spec/10_state.md R22; spec/30_encoding.md R90, R91, R104 to R106): register
names, the templates, the operand checks of an assembler and the fields it computes from a label. -/

namespace Sys2Proof.Machine

/-- The common names of `$0` to `$31`, in order (R22). -/
def gprNames : List String :=
  ["zero", "at", "v0", "v1", "a0", "a1", "a2", "a3"] ++
  ["t0", "t1", "t2", "t3", "t4", "t5", "t6", "t7"] ++
  ["s0", "s1", "s2", "s3", "s4", "s5", "s6", "s7"] ++
  ["t8", "t9", "k0", "k1", "gp", "sp", "s8", "ra"]

/-- The common name of a general register (R22). -/
def gprName (r : Reg) : String := gprNames.getD r.toNat ""

/-- The numeric name `$n` (R22). -/
def gprNumeric (r : Reg) : String := "$" ++ toString r.toNat

/-- The name `$f0` to `$f31` of a floating-point register (R105). -/
def fprNumeric (f : FReg) : String := "$f" ++ toString f.toNat

/-- The register a name stands for: "The assembler accepts the numeric name `$n` and the common name"
(R22). -/
def parseGpr (name : String) : Option Reg :=
  ((List.range 32).find? fun n =>
    gprName (BitVec.ofNat 5 n) == name || gprNumeric (BitVec.ofNat 5 n) == name).map (BitVec.ofNat 5)

/-- The templates of R104 that an instruction in scope has, and those of R105. -/
inductive Template where
  | arithLog
  | divMult
  | shift
  | shiftV
  | jumpR
  | moveFrom
  | moveTo
  | arithLogI
  | loadUpper
  | branch
  | branchZ
  | loadStore
  | jump
  | noOperand
  | fpThree
  | fpTwo
  | copMove
deriving DecidableEq, Repr

/-- The template of an instruction (R104 and R105; `jalr` is written with two operands, C10, and `lui`
as `lui rt, immediate`). -/
def template : Instr → Template
  | .add .. | .addu .. | .sub .. | .subu .. | .and .. | .or .. | .xor .. | .nor .. | .slt ..
  | .sltu .. => .arithLog
  | .mult .. | .multu .. | .div .. | .divu .. => .divMult
  | .sll .. | .srl .. | .sra .. => .shift
  | .sllv .. | .srlv .. | .srav .. => .shiftV
  | .jr .. | .jalr .. => .jumpR
  | .mfhi .. | .mflo .. => .moveFrom
  | .mthi .. | .mtlo .. => .moveTo
  | .addi .. | .addiu .. | .slti .. | .sltiu .. | .andi .. | .ori .. | .xori .. => .arithLogI
  | .lui .. => .loadUpper
  | .beq .. | .bne .. => .branch
  | .blez .. | .bgtz .. | .bltz .. | .bgez .. => .branchZ
  | .lb .. | .lbu .. | .lh .. | .lhu .. | .lw .. | .sb .. | .sh .. | .sw .. | .lwc1 ..
  | .swc1 .. => .loadStore
  | .j .. | .jal .. => .jump
  | .syscall | .brk => .noOperand
  | .addS .. | .subS .. | .mulS .. | .divS .. => .fpThree
  | .movS .. | .cvtSW .. | .cvtWS .. => .fpTwo
  | .mfc0 .. | .mfc1 .. | .mtc1 .. => .copMove

/-- Operands joined by commas. -/
def commaList : List String → String
  | [] => ""
  | [a] => a
  | a :: rest => a ++ ", " ++ commaList rest

/-- The operands of an instruction at `pc`, in the order of its template; a label is written as its
address, an immediate as a signed number where it is sign-extended. -/
def operandTexts (pc : Word) : Instr → List String
  | .add d s t | .addu d s t | .sub d s t | .subu d s t | .and d s t | .or d s t | .xor d s t
  | .nor d s t | .slt d s t | .sltu d s t => [gprNumeric d, gprNumeric s, gprNumeric t]
  | .mult s t | .multu s t | .div s t | .divu s t => [gprNumeric s, gprNumeric t]
  | .sll d t a | .srl d t a | .sra d t a => [gprNumeric d, gprNumeric t, toString a.toNat]
  | .sllv d t s | .srlv d t s | .srav d t s => [gprNumeric d, gprNumeric t, gprNumeric s]
  | .jr s => [gprNumeric s]
  | .jalr d s => [gprNumeric d, gprNumeric s]
  | .mfhi d | .mflo d => [gprNumeric d]
  | .mthi s | .mtlo s => [gprNumeric s]
  | .addi t s i | .addiu t s i | .slti t s i | .sltiu t s i =>
    [gprNumeric t, gprNumeric s, toString i.toInt]
  | .andi t s i | .ori t s i | .xori t s i => [gprNumeric t, gprNumeric s, toString i.toNat]
  | .lui t i => [gprNumeric t, toString i.toNat]
  | .beq s t i | .bne s t i => [gprNumeric s, gprNumeric t, toString (branchTarget pc i).toNat]
  | .blez s i | .bgtz s i | .bltz s i | .bgez s i =>
    [gprNumeric s, toString (branchTarget pc i).toNat]
  | .lb t i s | .lbu t i s | .lh t i s | .lhu t i s | .lw t i s | .sb t i s | .sh t i s | .sw t i s =>
    [gprNumeric t, toString i.toInt ++ "(" ++ gprNumeric s ++ ")"]
  | .lwc1 f i s | .swc1 f i s => [fprNumeric f, toString i.toInt ++ "(" ++ gprNumeric s ++ ")"]
  | .j a | .jal a => [toString (jumpTarget pc a).toNat]
  | .syscall | .brk => []
  | .addS d s t | .subS d s t | .mulS d s t | .divS d s t =>
    [fprNumeric d, fprNumeric s, fprNumeric t]
  | .movS d s | .cvtSW d s | .cvtWS d s => [fprNumeric d, fprNumeric s]
  | .mfc0 t d => [gprNumeric t, gprNumeric d]
  | .mfc1 t f | .mtc1 t f => [gprNumeric t, fprNumeric f]

/-- An instruction at `pc` as assembly text (R104, R105). -/
def assemblyText (pc : Word) (i : Instr) : String :=
  match operandTexts pc i with
  | [] => i.mnemonic
  | ops => i.mnemonic ++ " " ++ commaList ops

/-- "a register number 0..31", "`sa` 0..31" (R106). -/
def assembleField5 (n : Nat) : Option (BitVec 5) :=
  if n < 32 then some (BitVec.ofNat 5 n) else none

/-- "`immediate` a 16-bit value, written as a signed number -32768..32767 or an unsigned 0..65535, of
which the low 16 bits are encoded" (R106). -/
def assembleImm (n : Int) : Option Imm :=
  if -32768 ≤ n ∧ n ≤ 65535 then some (BitVec.ofInt 16 n) else none

/-- The offset field of a branch at `pc` to `label`: `((label - (pc + 4)) >> 2)[15:0]`, "valid when
`label - (pc + 4)` is a multiple of 4 in the range -131072 .. +131068" (R90). -/
def assembleBranch (pc label : Word) : Option Imm :=
  let d := label - (pc + 4#32)
  if d.toInt % 4 = 0 ∧ -131072 ≤ d.toInt ∧ d.toInt ≤ 131068 then some (d.extractLsb' 2 16) else none

/-- The target field of a jump at `pc` to `label`: `label[27:2]`; "An assembler must reject a `label`
whose bits 31..28 differ from those of `pc + 4`" (R91), and one that is not word-aligned. -/
def assembleJump (pc label : Word) : Option Target :=
  if label.extractLsb' 28 4 = (pc + 4#32).extractLsb' 28 4 ∧ label.extractLsb' 0 2 = 0#2 then
    some (label.extractLsb' 2 26)
  else none

end Sys2Proof.Machine
end

