-- ==== Sys2Proof/Machine/Environment.lean ====
section
/-! DEFINITION. The execution environment: what the launch supplies before a run and how it reads the
end of one (spec/60_exceptions.md R282, R306, R307; spec/70_reset_and_hazards.md R322). It does nothing
during a run. -/

namespace Sys2Proof.Machine

/-- The words stored from `a` on, each by `MemWrite(addr, 4, word)` (R307, spec/20_memory.md R55). -/
def State.storeWords (s : State) : Word → List Word → State
  | _, [] => s
  | a, w :: ws => (s.memWrite32 a w).storeWords (a + 4#32) ws

/-- The launch with a program of consecutive words stored at `base`, its addresses mapped and in
`text` (R307; R322 item 1). -/
def Launch.withProgram (l : Launch) (base : Word) (words : List Word) : Launch :=
  { l with
    mem := ((State.ofLaunch l).storeWords base words).mem
    cfg :=
      { l.cfg with
        mapped := ⟨base.toNat, 4 * words.length⟩ :: l.cfg.mapped
        text := ⟨base.toNat, 4 * words.length⟩ :: l.cfg.text } }

/-- What must hold of a launch before the rules describe its run: `RESET_PC` a multiple of 4 and in
`text` (spec/00_scope.md R6, R322 item 1), regions inside the address space, memory in canonical form. -/
def Launch.wellFormed (l : Launch) : Bool :=
  Width.word.aligned l.resetPc && (State.ofLaunch l).inText l.resetPc && l.cfg.wellFormed &&
    Memory.wf l.mem

/-- How the environment classifies the end of a run (R306). -/
inductive RunEnd where
  | normal
  | abnormal
deriving DecidableEq, Repr

/-- "A run ends exactly when `status` becomes a fault"; a `Breakpoint` or `SystemCall` at an address the
launch designates as an exit is a normal end, "every other fault is an abnormal end" (R306). -/
def State.runEnd (s : State) (exits : List Word) : Option RunEnd :=
  match s.status with
  | .running => none
  | .fault .breakpoint pc => some (if exits.contains pc then .normal else .abnormal)
  | .fault .systemCall pc => some (if exits.contains pc then .normal else .abnormal)
  | .fault _ _ => some .abnormal

/-- The ExcCode of the MIPS Cause register that R282 relates to each exception, for a reader; "No rule
of this spec depends on these numbers", and no instruction can read them. -/
def Exception.excCode : Exception → Nat
  | .addressError .fetch _ => 4
  | .addressError .load _ => 4
  | .addressError .store _ => 5
  | .busError .fetch _ => 6
  | .busError .load _ => 7
  | .busError .store _ => 7
  | .systemCall => 8
  | .breakpoint => 9
  | .reservedInstruction _ => 10
  | .integerOverflow => 12

end Sys2Proof.Machine
end

