-- ==== Sys2Proof/Machine/Ieee.lean ====
section
/-! DEFINITION. The recommended instance of the floating-point parameters (spec/48_coprocessor.md R263):
"IEEE 754 binary32 arithmetic rounding to nearest, ties to even", with "every NaN result, every result
for a NaN or out-of-range `cvt.w.s` operand, and every subnormal result left as a draw".

No step uses it: `exec` uses the opaque functions of Config. `Config.fpRecommended` is the assumption a
claim may make of them and must then state (R263). `none` is a result the recommended instance leaves
as a draw. PRESUMED where the one sentence of R263 leaves a detail (log 20). -/

namespace Sys2Proof.Machine

/-- What a binary32 pattern stands for; `finite neg m e` is `(-1)^neg * m * 2^e`. -/
inductive FpValue where
  | nan
  | inf (neg : Bool)
  | finite (neg : Bool) (m : Nat) (e : Int)
deriving DecidableEq, Repr

/-- "1 sign bit, 8 exponent bits, 23 fraction bits" (R254). -/
def fpValue (w : Word) : FpValue :=
  let ex := (w.extractLsb' 23 8).toNat
  let fr := (w.extractLsb' 0 23).toNat
  if ex = 255 then (if fr = 0 then .inf w.msb else .nan)
  else if ex = 0 then .finite w.msb fr (-149)
  else .finite w.msb (fr + 2 ^ 23) (ex - 150)

/-- The pattern with these sign, exponent and fraction fields. -/
def fpPattern (neg : Bool) (ex fr : Nat) : Word :=
  BitVec.ofBool neg ++ BitVec.ofNat 8 ex ++ BitVec.ofNat 23 fr

/-- The zero of a sign. -/
def fpZero (neg : Bool) : Word := fpPattern neg 0 0

/-- The infinity of a sign. -/
def fpInf (neg : Bool) : Word := fpPattern neg 255 0

/-- `p / q` rounded to an integer, to nearest, ties to even. -/
def roundRatio (p q : Nat) : Nat :=
  let d := p / q
  let r := p % q
  if 2 * r < q then d else if q < 2 * r then d + 1 else d + d % 2

/-- `(p / q) * 2^sh` rounded to an integer, to nearest, ties to even. -/
def roundScaled (p q : Nat) (sh : Int) : Nat :=
  if 0 ≤ sh then roundRatio (p * 2 ^ sh.toNat) q else roundRatio p (q * 2 ^ (-sh).toNat)

/-- The greatest `l` with `2^l ≤ p / q`, for positive `p` and `q`. -/
def floorLog2 (p q : Nat) : Int :=
  let l : Int := (Nat.log2 p : Int) - Nat.log2 q
  if q * 2 ^ l.toNat ≤ p * 2 ^ (-l).toNat then l else l - 1

/-- `(-1)^neg * (p / q) * 2^e` as a single-precision number, for positive `p` and `q`; `none` for a
subnormal result. -/
def fpRound (neg : Bool) (p q : Nat) (e : Int) : Option Word :=
  let k := max (e + floorLog2 p q - 23) (-149)
  let m := roundScaled p q (e - k)
  if m = 0 then some (fpZero neg)
  else if m < 2 ^ 23 then none
  else
    let (m, k) := if m = 2 ^ 24 then (2 ^ 23, k + 1) else (m, k)
    if 255 ≤ k + 150 then some (fpInf neg) else some (fpPattern neg (k + 150).toNat (m - 2 ^ 23))

/-- A magnitude with its sign. -/
def signedMagnitude (neg : Bool) (m : Nat) : Int := if neg then -(m : Int) else m

/-- The sum of two values. -/
def fpAddValues : FpValue → FpValue → Option Word
  | .nan, _ => none
  | _, .nan => none
  | .inf a, .inf b => if a = b then some (fpInf a) else none
  | .inf a, .finite .. => some (fpInf a)
  | .finite .., .inf b => some (fpInf b)
  | .finite a m e, .finite b n f =>
    let low := min e f
    let sum := signedMagnitude a (m * 2 ^ (e - low).toNat) + signedMagnitude b (n * 2 ^ (f - low).toNat)
    if sum = 0 then some (fpZero (a && b)) else fpRound (decide (sum < 0)) sum.natAbs 1 low

/-- The value with the other sign. -/
def FpValue.negated : FpValue → FpValue
  | .nan => .nan
  | .inf a => .inf (!a)
  | .finite a m e => .finite (!a) m e

/-- `FP_ADD_S` of the recommended instance. -/
def ieeeAdd (a b : Word) : Option Word := fpAddValues (fpValue a) (fpValue b)

/-- `FP_SUB_S` of the recommended instance: "fs minus ft" (R257). -/
def ieeeSub (a b : Word) : Option Word := fpAddValues (fpValue a) (fpValue b).negated

/-- `FP_MUL_S` of the recommended instance. -/
def ieeeMul (a b : Word) : Option Word :=
  match fpValue a, fpValue b with
  | .nan, _ => none
  | _, .nan => none
  | .inf s, .inf t => some (fpInf (s != t))
  | .inf s, .finite t n _ => if n = 0 then none else some (fpInf (s != t))
  | .finite s m _, .inf t => if m = 0 then none else some (fpInf (s != t))
  | .finite s m e, .finite t n f =>
    if m * n = 0 then some (fpZero (s != t)) else fpRound (s != t) (m * n) 1 (e + f)

/-- `FP_DIV_S` of the recommended instance: "fs divided by ft" (R259), an infinity for a zero
divisor. -/
def ieeeDiv (a b : Word) : Option Word :=
  match fpValue a, fpValue b with
  | .nan, _ => none
  | _, .nan => none
  | .inf _, .inf _ => none
  | .inf s, .finite t _ _ => some (fpInf (s != t))
  | .finite s _ _, .inf t => some (fpZero (s != t))
  | .finite s m e, .finite t n f =>
    if n = 0 then (if m = 0 then none else some (fpInf (s != t)))
    else if m = 0 then some (fpZero (s != t))
    else fpRound (s != t) m n (e - f)

/-- `FP_CVT_S_W` of the recommended instance. -/
def ieeeCvtSW (a : Word) : Option Word :=
  let n := a.toInt
  if n = 0 then some (fpZero false) else fpRound (decide (n < 0)) n.natAbs 1 0

/-- `FP_CVT_W_S` of the recommended instance, "rounding by the same mode"; `none` for a NaN or an
operand outside -2^31 .. 2^31-1. -/
def ieeeCvtWS (a : Word) : Option Word :=
  match fpValue a with
  | .nan => none
  | .inf _ => none
  | .finite s m e =>
    let n := signedMagnitude s (roundScaled m 1 e)
    if -2 ^ 31 ≤ n ∧ n ≤ 2 ^ 31 - 1 then some (BitVec.ofInt 32 n) else none

/-- The floating-point parameters of this launch are the recommended instance, wherever that gives a
result. -/
def Config.fpRecommended : Prop :=
  (∀ a b r, ieeeAdd a b = some r → Config.fpAddS a b = r) ∧
  (∀ a b r, ieeeSub a b = some r → Config.fpSubS a b = r) ∧
  (∀ a b r, ieeeMul a b = some r → Config.fpMulS a b = r) ∧
  (∀ a b r, ieeeDiv a b = some r → Config.fpDivS a b = r) ∧
  (∀ a r, ieeeCvtSW a = some r → Config.fpCvtSW a = r) ∧
  (∀ a r, ieeeCvtWS a = some r → Config.fpCvtWS a = r)

end Sys2Proof.Machine
end

