-- ==== Sys2Proof/Safety.lean ====
section
/-! DEFINITION. The terms in which claims are stated: the invariant, what a step leaves unchanged, and
the effect of an instruction as seen through the machine's own reads. -/

namespace Sys2Proof

/-! ### What each instruction may touch (spec/10_state.md R20, spec/20_memory.md R53) -/

/-- The general register an instruction names as its destination. -/
def Instr.gprDest : Instr → Option Reg
  | .sll rd _ _ | .srl rd _ _ | .sra rd _ _ | .sllv rd _ _ | .srlv rd _ _ | .srav rd _ _
  | .jalr rd _ | .mfhi rd | .mflo rd | .add rd _ _ | .addu rd _ _ | .sub rd _ _ | .subu rd _ _
  | .and rd _ _ | .or rd _ _ | .xor rd _ _ | .nor rd _ _ | .slt rd _ _ | .sltu rd _ _ => some rd
  | .jr .. | .syscall | .brk | .mthi .. | .mtlo .. | .mult .. | .multu .. | .div .. | .divu ..
  | .bltz .. | .bgez .. | .beq .. | .bne .. | .blez .. | .bgtz .. | .sb .. | .sh .. | .sw ..
  | .lwc1 .. | .swc1 .. | .j .. | .mtc1 .. | .addS .. | .subS .. | .mulS .. | .divS ..
  | .movS .. | .cvtSW .. | .cvtWS .. => none
  | .addi rt _ _ | .addiu rt _ _ | .slti rt _ _ | .sltiu rt _ _ | .andi rt _ _ | .ori rt _ _
  | .xori rt _ _ | .lui rt _ | .lb rt _ _ | .lh rt _ _ | .lw rt _ _ | .lbu rt _ _ | .lhu rt _ _
  | .mfc0 rt _ | .mfc1 rt _ => some rt
  | .jal .. => some 31#5

/-- The floating-point register an instruction names as its destination (spec/10_state.md R20). -/
def Instr.fprDest : Instr → Option FReg
  | .sll .. | .srl .. | .sra .. | .sllv .. | .srlv .. | .srav .. | .jr .. | .jalr .. | .syscall
  | .brk | .mfhi .. | .mthi .. | .mflo .. | .mtlo .. | .mult .. | .multu .. | .div .. | .divu ..
  | .add .. | .addu .. | .sub .. | .subu .. | .and .. | .or .. | .xor .. | .nor .. | .slt ..
  | .sltu .. | .bltz .. | .bgez .. | .beq .. | .bne .. | .blez .. | .bgtz .. | .addi ..
  | .addiu .. | .slti .. | .sltiu .. | .andi .. | .ori .. | .xori .. | .lui .. | .lb .. | .lh ..
  | .lw .. | .lbu .. | .lhu .. | .sb .. | .sh .. | .sw .. | .swc1 .. | .j .. | .jal ..
  | .mfc0 .. | .mfc1 .. => none
  | .lwc1 ft _ _ => some ft
  | .mtc1 _ fs => some fs
  | .addS fd _ _ | .subS fd _ _ | .mulS fd _ _ | .divS fd _ _ | .movS fd _ | .cvtSW fd _
  | .cvtWS fd _ => some fd

/-- HI and LO are written by "`mult multu div divu mthi mtlo`" (spec/10_state.md R20). -/
def Instr.writesHiLo : Instr → Bool
  | .sll .. | .srl .. | .sra .. | .sllv .. | .srlv .. | .srav .. | .jr .. | .jalr .. | .syscall
  | .brk | .mfhi .. | .mflo .. | .add .. | .addu .. | .sub .. | .subu .. | .and .. | .or ..
  | .xor .. | .nor .. | .slt .. | .sltu .. | .bltz .. | .bgez .. | .beq .. | .bne .. | .blez ..
  | .bgtz .. | .addi .. | .addiu .. | .slti .. | .sltiu .. | .andi .. | .ori .. | .xori ..
  | .lui .. | .lb .. | .lh .. | .lw .. | .lbu .. | .lhu .. | .sb .. | .sh .. | .sw .. | .lwc1 ..
  | .swc1 .. | .j .. | .jal .. | .mfc0 .. | .mfc1 .. | .mtc1 .. | .addS .. | .subS .. | .mulS ..
  | .divS .. | .movS .. | .cvtSW .. | .cvtWS .. => false
  | .mthi .. | .mtlo .. | .mult .. | .multu .. | .div .. | .divu .. => true

/-- Width, base register and displacement of a load (spec/20_memory.md R53). -/
def Instr.loadAccess : Instr → Option (Machine.Width × Reg × Imm)
  | .sll .. | .srl .. | .sra .. | .sllv .. | .srlv .. | .srav .. | .jr .. | .jalr .. | .syscall
  | .brk | .mfhi .. | .mthi .. | .mflo .. | .mtlo .. | .mult .. | .multu .. | .div .. | .divu ..
  | .add .. | .addu .. | .sub .. | .subu .. | .and .. | .or .. | .xor .. | .nor .. | .slt ..
  | .sltu .. | .bltz .. | .bgez .. | .beq .. | .bne .. | .blez .. | .bgtz .. | .addi ..
  | .addiu .. | .slti .. | .sltiu .. | .andi .. | .ori .. | .xori .. | .lui .. | .sb .. | .sh ..
  | .sw .. | .swc1 .. | .j .. | .jal .. | .mfc0 .. | .mfc1 .. | .mtc1 .. | .addS .. | .subS ..
  | .mulS .. | .divS .. | .movS .. | .cvtSW .. | .cvtWS .. => none
  | .lb _ imm rs | .lbu _ imm rs => some (.byte, rs, imm)
  | .lh _ imm rs | .lhu _ imm rs => some (.half, rs, imm)
  | .lw _ imm rs | .lwc1 _ imm rs => some (.word, rs, imm)

/-- Width, base register and displacement of a store (spec/20_memory.md R53). -/
def Instr.storeAccess : Instr → Option (Machine.Width × Reg × Imm)
  | .sll .. | .srl .. | .sra .. | .sllv .. | .srlv .. | .srav .. | .jr .. | .jalr .. | .syscall
  | .brk | .mfhi .. | .mthi .. | .mflo .. | .mtlo .. | .mult .. | .multu .. | .div .. | .divu ..
  | .add .. | .addu .. | .sub .. | .subu .. | .and .. | .or .. | .xor .. | .nor .. | .slt ..
  | .sltu .. | .bltz .. | .bgez .. | .beq .. | .bne .. | .blez .. | .bgtz .. | .addi ..
  | .addiu .. | .slti .. | .sltiu .. | .andi .. | .ori .. | .xori .. | .lui .. | .lb .. | .lh ..
  | .lw .. | .lbu .. | .lhu .. | .lwc1 .. | .j .. | .jal .. | .mfc0 .. | .mfc1 .. | .mtc1 ..
  | .addS .. | .subS .. | .mulS .. | .divS .. | .movS .. | .cvtSW .. | .cvtWS .. => none
  | .sb _ imm rs => some (.byte, rs, imm)
  | .sh _ imm rs => some (.half, rs, imm)
  | .sw _ imm rs | .swc1 _ imm rs => some (.word, rs, imm)

/-- The instruction is one of "the ten control-transfer instructions" (spec/45_itype_branch.md R202). -/
def Instr.isTransfer : Instr → Bool
  | .beq .. | .bne .. | .blez .. | .bgtz .. | .bltz .. | .bgez .. | .j .. | .jal .. | .jr ..
  | .jalr .. => true
  | .sll .. | .srl .. | .sra .. | .sllv .. | .srlv .. | .srav .. | .syscall | .brk | .mfhi ..
  | .mthi .. | .mflo .. | .mtlo .. | .mult .. | .multu .. | .div .. | .divu .. | .add .. | .addu ..
  | .sub .. | .subu .. | .and .. | .or .. | .xor .. | .nor .. | .slt .. | .sltu .. | .addi ..
  | .addiu .. | .slti .. | .sltiu .. | .andi .. | .ori .. | .xori .. | .lui .. | .lb .. | .lh ..
  | .lw .. | .lbu .. | .lhu .. | .sb .. | .sh .. | .sw .. | .lwc1 .. | .swc1 .. | .mfc0 .. | .mfc1 ..
  | .mtc1 .. | .addS .. | .subS .. | .mulS .. | .divS .. | .movS .. | .cvtSW .. | .cvtWS .. => false

end Sys2Proof

namespace Sys2Proof.Machine

/-! ### The invariant -/

/-- What every reachable state satisfies, from any launch whose memory is in canonical form. -/
structure State.Inv (s : State) : Prop where
  /-- equal memories are equal data -/
  memCanonical : Memory.wf s.mem = true
  /-- the storage of `$0` holds 0 (spec/10_state.md R21) -/
  zeroSlot : s.gpr[0] = 0#32
  /-- `delay` exists "only when `DELAY_SLOTS = true`" (spec/10_state.md R20) -/
  noPending : s.cfg.delaySlots = false → s.delay = none

/-! ### Frames -/

/-- Every general register outside the list reads as before. -/
def SameGprs (except : List Reg) (s t : State) : Prop :=
  ∀ r, r ∉ except → t.readGpr r = s.readGpr r

/-- Every floating-point register outside the list reads as before. -/
def SameFprs (except : List FReg) (s t : State) : Prop :=
  ∀ f, f ∉ except → t.readFpr f = s.readFpr f

/-- HI and LO are as before. -/
def SameHiLo (s t : State) : Prop := t.hi = s.hi ∧ t.lo = s.lo

/-- Coprocessor 0, the launch parameters and the run status are as before. -/
def SameSystem (s t : State) : Prop :=
  (∀ c, t.readCp0 c = s.readCp0 c) ∧ t.cfg = s.cfg ∧ t.status = s.status

/-- Every byte of memory outside the list of addresses reads as before. -/
def SameMemory (except : List Word) (s t : State) : Prop :=
  ∀ a, a ∉ except → t.byteAt a = s.byteAt a

/-! ### Effects: what is written, and that nothing else is -/

/-- The only register or memory effect is `x[rd] <- v`, discarded for `$0` (spec/10_state.md R21). -/
def WritesGpr (rd : Reg) (v : Word) (s t : State) : Prop :=
  t.readGpr rd = (if rd = 0#5 then 0#32 else v) ∧ SameGprs [rd] s t ∧ SameFprs [] s t ∧
    SameHiLo s t ∧ SameSystem s t ∧ SameMemory [] s t ∧ t.draws = s.draws

/-- The only register or memory effect is `f[fd] <- v`. -/
def WritesFpr (fd : FReg) (v : Word) (s t : State) : Prop :=
  t.readFpr fd = v ∧ SameGprs [] s t ∧ SameFprs [fd] s t ∧ SameHiLo s t ∧ SameSystem s t ∧
    SameMemory [] s t ∧ t.draws = s.draws

/-- The only register or memory effect is on HI and LO (and, for a draw, on the model's counter). -/
def WritesHiLo (hi lo : Word) (s t : State) : Prop :=
  t.hi = hi ∧ t.lo = lo ∧ SameGprs [] s t ∧ SameFprs [] s t ∧ SameSystem s t ∧ SameMemory [] s t

/-- No register or memory effect. -/
def WritesNothing (s t : State) : Prop :=
  SameGprs [] s t ∧ SameFprs [] s t ∧ SameHiLo s t ∧ SameSystem s t ∧ SameMemory [] s t ∧
    t.draws = s.draws

/-- The only register or memory effect is on the bytes at the listed addresses. -/
def WritesMemory (at_ : List Word) (s t : State) : Prop :=
  SameGprs [] s t ∧ SameFprs [] s t ∧ SameHiLo s t ∧ SameSystem s t ∧ SameMemory at_ s t ∧
    t.draws = s.draws

/-! ### The program counter -/

/-- The machine goes on to the next instruction: `pc + 4`, or, in a delay slot, the pending target
(spec/10_state.md R26, spec/45_itype_branch.md R202). -/
def MovesOn (s t : State) : Prop :=
  t.delay = none ∧
  t.pc = (if s.cfg.delaySlots = true then s.delay.getD (s.pc + 4#32) else s.pc + 4#32)

/-- A transfer to `target` outside a delay slot: at once without delay slots, after the next instruction
with them (spec/45_itype_branch.md R202). -/
def JumpsTo (target : Word) (s t : State) : Prop :=
  (s.cfg.delaySlots = false → t.pc = target ∧ t.delay = none) ∧
  (s.cfg.delaySlots = true → t.pc = s.pc + 4#32 ∧ t.delay = some target)

/-- The instruction about to run stands in a delay slot (spec/45_itype_branch.md R202). -/
def State.InSlot (s : State) : Prop := s.cfg.delaySlots = true ∧ s.delay ≠ none

/-- The state after `raise e`: nothing but `status` changes (spec/60_exceptions.md R283). -/
def State.faulted (s : State) (e : Exception) : State := { s with status := .fault e s.pc }

/-! ### Encodings and accesses -/

/-- The word is the instruction's encoding, both ways. -/
def Coded (w : Word) (i : Instr) : Prop := decodeWord w = .ok i ∧ encode i = w

/-- A load may be performed: aligned, every byte mapped (spec/20_memory.md R59, R62). -/
def State.CanLoad (s : State) (w : Width) (a : Word) : Prop :=
  a.toNat % w.bytes = 0 ∧ ∀ b ∈ w.span a, s.isMapped b = true

/-- A store may be performed: aligned, every byte mapped and outside `text` (spec/20_memory.md R59, R62,
R70). -/
def State.CanStore (s : State) (w : Width) (a : Word) : Prop :=
  a.toNat % w.bytes = 0 ∧ ∀ b ∈ w.span a, s.isMapped b = true ∧ s.inText b = false

/-- An instruction may be fetched (spec/00_scope.md R14). -/
def State.CanFetch (s : State) : Prop :=
  s.pc.toNat % 4 = 0 ∧ (∀ b ∈ Width.word.span s.pc, s.isMapped b = true) ∧ s.inText s.pc = true

/-! ### Completion: the instruction answers a next state with exactly this effect -/

/-- The integer is representable in 32 bits as a signed number (spec/40_rtype_alu.md R131). -/
def Fits32 (n : Int) : Prop := -2 ^ 31 ≤ n ∧ n ≤ 2 ^ 31 - 1

/-- The instruction completes: `x[rd] <- v`, nothing else, and the machine moves on. -/
def SetsGpr (i : Instr) (s : State) (rd : Reg) (v : Word) : Prop :=
  ∃ t, exec i s = .next t ∧ WritesGpr rd v s t ∧ MovesOn s t

/-- The instruction completes: `f[fd] <- v`, nothing else, and the machine moves on. -/
def SetsFpr (i : Instr) (s : State) (fd : FReg) (v : Word) : Prop :=
  ∃ t, exec i s = .next t ∧ WritesFpr fd v s t ∧ MovesOn s t

/-- The instruction completes: HI and LO are set, nothing else, and the machine moves on. -/
def SetsHiLo (i : Instr) (s : State) (hi lo : Word) : Prop :=
  ∃ t, exec i s = .next t ∧ WritesHiLo hi lo s t ∧ t.draws = s.draws ∧ MovesOn s t

/-- The instruction completes: control goes to `g`, and nothing else happens. -/
def Jumps (i : Instr) (s : State) (g : Word) : Prop :=
  ∃ t, exec i s = .next t ∧ WritesNothing s t ∧ JumpsTo g s t

/-- The instruction completes: `x[rd] <- v`, control goes to `g`, and nothing else happens. -/
def LinksAndJumps (i : Instr) (s : State) (rd : Reg) (v g : Word) : Prop :=
  ∃ t, exec i s = .next t ∧ WritesGpr rd v s t ∧ JumpsTo g s t

/-- The instruction completes: nothing happens but that the machine moves on. -/
def FallsThrough (i : Instr) (s : State) : Prop :=
  ∃ t, exec i s = .next t ∧ WritesNothing s t ∧ MovesOn s t

/-- The instruction takes the exception `e`: "this and nothing else" (spec/60_exceptions.md R283). -/
def Raises (i : Instr) (s : State) (e : Exception) : Prop := exec i s = .next (s.faulted e)

/-- What a load from `a` raises when it may not be performed (spec/20_memory.md R59, R62). -/
def LoadRaises (i : Instr) (s : State) (w : Width) (a : Word) : Prop :=
  (a.toNat % w.bytes ≠ 0 → Raises i s (.addressError .load a)) ∧
  (a.toNat % w.bytes = 0 → (∃ b ∈ w.span a, s.isMapped b = false) → Raises i s (.busError .load a))

/-- What a store to `a` raises when it may not be performed (spec/20_memory.md R59, R62, R70). -/
def StoreRaises (i : Instr) (s : State) (w : Width) (a : Word) : Prop :=
  (a.toNat % w.bytes ≠ 0 → Raises i s (.addressError .store a)) ∧
  (a.toNat % w.bytes = 0 → (∃ b ∈ w.span a, s.isMapped b = false ∨ s.inText b = true) →
    Raises i s (.busError .store a))

/-- "raised by" and "condition" of the table of exceptions, for an instruction that has been fetched
(spec/60_exceptions.md R281). -/
def Cause (s : State) (i : Instr) : Exception → Prop
  | .addressError .load a =>
    ∃ w rs imm, i.loadAccess = some (w, rs, imm) ∧ a = displaced (s.readGpr rs) imm ∧
      a.toNat % w.bytes ≠ 0
  | .addressError .store a =>
    ∃ w rs imm, i.storeAccess = some (w, rs, imm) ∧ a = displaced (s.readGpr rs) imm ∧
      a.toNat % w.bytes ≠ 0
  | .addressError .fetch _ => False
  | .busError .load a =>
    ∃ w rs imm, i.loadAccess = some (w, rs, imm) ∧ a = displaced (s.readGpr rs) imm ∧
      a.toNat % w.bytes = 0 ∧ ∃ b ∈ w.span a, s.isMapped b = false
  | .busError .store a =>
    ∃ w rs imm, i.storeAccess = some (w, rs, imm) ∧ a = displaced (s.readGpr rs) imm ∧
      a.toNat % w.bytes = 0 ∧ ∃ b ∈ w.span a, s.isMapped b = false ∨ s.inText b = true
  | .busError .fetch _ => False
  | .reservedInstruction w =>
    w = encode i ∧ (i.wellFormed = false ∨ (i.isTransfer = true ∧ s.InSlot))
  | .integerOverflow =>
    (∃ rd rs rt, i = .add rd rs rt ∧ ¬ Fits32 ((s.readGpr rs).toInt + (s.readGpr rt).toInt)) ∨
    (∃ rd rs rt, i = .sub rd rs rt ∧ ¬ Fits32 ((s.readGpr rs).toInt - (s.readGpr rt).toInt)) ∨
    (∃ rt rs imm, i = .addi rt rs imm ∧ ¬ Fits32 ((s.readGpr rs).toInt + imm.toInt))
  | .systemCall => i = .syscall
  | .breakpoint => i = .brk

end Sys2Proof.Machine
end

