-- ==== Sys2Proof/Certificates/Slice0/Obligations.lean ====
section
/-! DEFINITION. The statements for the provers. Each is about every state, every operand and every launch
parameter unless it says otherwise; the terms are those of Safety.lean. -/

open Sys2Proof Sys2Proof.Machine

/-- Decoding an encoded instruction gives it back, in either byte order (30_encoding.md sections
1, 2 and 4 (R80 to R87, R94 to R99), 20_memory.md section 3 (R55)). -/
def Obligations.EncodeThenDecode : Prop :=
  ∀ (e : Endian) (i : Instr) (rest : List Byte),
    decode e (bytesOfWord e (encode i) ++ rest) = .ok (i, rest)

/-- A word that decodes is the encoding of the instruction it decodes to (30_encoding.md section 2
(R87), 30_encoding.md section 5 (R101)). -/
def Obligations.DecodeThenEncode : Prop :=
  ∀ (w : Word) (i : Instr), decodeWord w = .ok i → encode i = w

/-- The decoder is exactly the mask and match columns of the opcode table, whose rows do not
overlap (R101). -/
def Obligations.DecoderMatchesOpcodeTable : Prop :=
  (∀ (w : Word) (i : Instr), decodeWord w = .ok i →
    ∃ r ∈ opcodeTable, r.mnemonic = i.mnemonic ∧ r.covers w = true) ∧
  (∀ (w : Word), ∀ r ∈ opcodeTable, r.covers w = true →
    ∃ i, decodeWord w = .ok i ∧ i.mnemonic = r.mnemonic) ∧
  (∀ (w : Word), ∀ r ∈ opcodeTable, ∀ q ∈ opcodeTable,
    r.covers w = true → q.covers w = true → r = q)

/-- Words written out from the spec's encodings decode to their instructions (95_test_vectors.md
sections 1 and 2, 30_encoding.md section 4). -/
def Obligations.SpecWordsDecode : Prop :=
  decodeWord 0b000000_00001_00010_00011_00000_100000#32 = .ok (.add 3 1 2) ∧
  decodeWord 0b000000_00000_00001_00010_00100_000000#32 = .ok (.sll 2 1 4) ∧
  decodeWord 0b000000_00001_00010_00000_00000_011010#32 = .ok (.div 1 2) ∧
  decodeWord 0b000000_00010_00000_11111_00000_001001#32 = .ok (.jalr 31 2) ∧
  decodeWord 0b000000_00000_00000_00000_00000_001100#32 = .ok .syscall ∧
  decodeWord 0b001000_00001_00010_1111111111111111#32 = .ok (.addi 2 1 0xFFFF) ∧
  decodeWord 0b000001_00001_00001_0000000000000010#32 = .ok (.bgez 1 2) ∧
  decodeWord 0b100011_00001_00010_1111111111111100#32 = .ok (.lw 2 0xFFFC 1) ∧
  decodeWord 0b111001_00001_00010_0000000000001000#32 = .ok (.swc1 2 8 1) ∧
  decodeWord 0b000010_00000100000000000000001000#32 = .ok (.j 0x0100008) ∧
  decodeWord 0b010000_00000_00010_01100_00000_000000#32 = .ok (.mfc0 2 12) ∧
  decodeWord 0b010001_00100_00010_00100_00000_000000#32 = .ok (.mtc1 2 4) ∧
  decodeWord 0b010001_10100_00000_00100_00010_100000#32 = .ok (.cvtSW 2 4)

/-- A step of a running machine runs the instruction the bytes at pc decode to (00_scope.md
section 5 (R14), 20_memory.md section 3 (R55)). -/
def Obligations.StepRunsDecodedInstruction : Prop :=
  ∀ (s : State) (i : Instr), s.status = .running → s.CanFetch →
    decode s.cfg.endian ((Width.word.span s.pc).map s.byteAt) = .ok (i, []) →
    step s = exec i s

/-- A misaligned pc raises AddressError(fetch, pc); only jr and jalr can make one (R60). -/
def Obligations.MisalignedFetchRaises : Prop :=
  (∀ (s : State), s.status = .running → s.pc.toNat % 4 ≠ 0 →
    step s = .next (s.faulted (.addressError .fetch s.pc))) ∧
  (∀ (i : Instr) (s t : State), s.pc.toNat % 4 = 0 → (∀ d, s.delay = some d → d.toNat % 4 = 0) →
    (∀ rs, i ≠ .jr rs) → (∀ rd rs, i ≠ .jalr rd rs) → exec i s = .next t →
    t.pc.toNat % 4 = 0 ∧ ∀ d, t.delay = some d → d.toNat % 4 = 0) ∧
  (∀ (s : State) (rd rs : Reg), ¬ s.InSlot → Jumps (.jr rs) s (s.readGpr rs) ∧
    ∃ v, LinksAndJumps (.jalr rd rs) s rd v (s.readGpr rs))

/-- A word that no row of the opcode table covers raises ReservedInstruction (R100). -/
def Obligations.ReservedWordRaises : Prop :=
  ∀ (s : State), s.status = .running → s.CanFetch →
    (∀ r ∈ opcodeTable, r.covers (s.memRead32 s.pc) = false) →
    step s = .next (s.faulted (.reservedInstruction (s.memRead32 s.pc)))

/-- An aligned fetch, load or store of an unmapped byte raises BusError and changes nothing (R62).
-/
def Obligations.UnmappedAccessRaises : Prop :=
  (∀ (s : State), s.status = .running → s.pc.toNat % 4 = 0 →
    (∃ b ∈ Width.word.span s.pc, s.isMapped b = false) →
    step s = .next (s.faulted (.busError .fetch s.pc))) ∧
  (∀ (i : Instr) (s : State) (w : Width) (rs : Reg) (imm : Imm),
    i.loadAccess = some (w, rs, imm) → (displaced (s.readGpr rs) imm).toNat % w.bytes = 0 →
    (∃ b ∈ w.span (displaced (s.readGpr rs) imm), s.isMapped b = false) →
    Raises i s (.busError .load (displaced (s.readGpr rs) imm))) ∧
  (∀ (i : Instr) (s : State) (w : Width) (rs : Reg) (imm : Imm),
    i.storeAccess = some (w, rs, imm) → (displaced (s.readGpr rs) imm).toNat % w.bytes = 0 →
    (∃ b ∈ w.span (displaced (s.readGpr rs) imm), s.isMapped b = false) →
    Raises i s (.busError .store (displaced (s.readGpr rs) imm)))

/-- A load or store whose address its size does not divide raises AddressError and changes nothing
(R59). -/
def Obligations.MisalignedDataAccessRaises : Prop :=
  (∀ (i : Instr) (s : State) (w : Width) (rs : Reg) (imm : Imm),
    i.loadAccess = some (w, rs, imm) → (displaced (s.readGpr rs) imm).toNat % w.bytes ≠ 0 →
    Raises i s (.addressError .load (displaced (s.readGpr rs) imm))) ∧
  (∀ (i : Instr) (s : State) (w : Width) (rs : Reg) (imm : Imm),
    i.storeAccess = some (w, rs, imm) → (displaced (s.readGpr rs) imm).toNat % w.bytes ≠ 0 →
    Raises i s (.addressError .store (displaced (s.readGpr rs) imm)))

/-- No step changes text or a byte in it; a store into it and a fetch outside it raise BusError
(20_memory.md section 5 (R70), 92_eei_decisions.md D18). Which bytes lie in text is the model's
reading (log 6, DEDUCED): those of each word whose address is in text, which D18 calls a set of
word addresses. -/
def Obligations.ProgramTextNeverChanges : Prop :=
  (∀ (s t : State), step s = .next t →
    t.cfg.text = s.cfg.text ∧ ∀ a, s.inText a = true → t.byteAt a = s.byteAt a) ∧
  (∀ (i : Instr) (s : State) (w : Width) (rs : Reg) (imm : Imm),
    i.storeAccess = some (w, rs, imm) → (displaced (s.readGpr rs) imm).toNat % w.bytes = 0 →
    (∃ b ∈ w.span (displaced (s.readGpr rs) imm), s.inText b = true) →
    Raises i s (.busError .store (displaced (s.readGpr rs) imm))) ∧
  (∀ (s : State), s.status = .running → s.pc.toNat % 4 = 0 → s.inText s.pc = false →
    step s = .next (s.faulted (.busError .fetch s.pc)))

/-- A step that raises changes nothing but status, and no step follows it (60_exceptions.md
section 3 (R283, R284)). R283 says only that no further step is taken; that step then answers the
fault terminal, with the recorded exception and pc, is the model's choice (log 12, DESIGN CHOICE).
-/
def Obligations.RaiseIsPreciseAndTerminal : Prop :=
  (∀ (s t : State), step s = .next t → t.status ≠ .running → ∃ e, t = s.faulted e) ∧
  (∀ (s : State) (e : Exception) (pc : Word), s.status = .fault e pc →
    step s = .fault (.terminal e pc) ∧ ∀ t, step s ≠ .next t)

/-- Every exception is raised exactly by its listed instructions under its listed condition
(60_exceptions.md section 2 (R281), 92_eei_decisions.md D18). Three points are the model's
(DEDUCED): a byte is in text when its word's address is (log 6); an odd floating-point register,
which R281 lists at decode, is a cause of the decoded instruction (log 16); the word recorded for
an instruction is its encoding (log 15). -/
def Obligations.ExceptionsHaveExactlyTheListedCauses : Prop :=
  (∀ (i : Instr) (s : State) (e : Exception), s.status = .running →
    (Raises i s e ↔ Cause s i e)) ∧
  (∀ (s : State) (e : Exception), s.status = .running → (∀ i, s.fetch ≠ .ok i) →
    step s = .next (s.faulted e) →
    (e = .addressError .fetch s.pc ∧ s.pc.toNat % 4 ≠ 0) ∨
    (e = .busError .fetch s.pc ∧
      ((∃ b ∈ Width.word.span s.pc, s.isMapped b = false) ∨ s.inText s.pc = false)) ∨
    (e = .reservedInstruction (s.memRead32 s.pc) ∧
      ∀ r ∈ opcodeTable, r.covers (s.memRead32 s.pc) = false))

/-- An instruction with no listed cause of an exception completes and the machine keeps running
(60_exceptions.md section 2 (R281)). -/
def Obligations.InstructionWithoutCauseCompletes : Prop :=
  ∀ (i : Instr) (s : State), s.status = .running → (∀ e, ¬ Cause s i e) →
    ∃ t, exec i s = .next t ∧ t.status = .running

/-- A running machine always has a next state: no step refuses (60_exceptions.md section 9 (R306),
00_scope.md section 5 (R14)). -/
def Obligations.RunningMachineAlwaysSteps : Prop :=
  ∀ (s : State), s.status = .running → ∃ t, step s = .next t

/-- Every step keeps memory canonical, $0 zero and the pending target absent without delay slots
(10_state.md sections 1 and 2 (R20, R21), 45_itype_branch.md (R202)). -/
def Obligations.StepKeepsInvariant : Prop :=
  ∀ (s t : State), s.Inv → step s = .next t → t.Inv

/-- Every launch with canonical memory starts in a state that meets the invariant (10_state.md
section 8 (R35)). -/
def Obligations.LaunchStatesMeetInvariant : Prop :=
  (∀ (l : Launch), Memory.wf l.mem = true → (State.ofLaunch l).Inv) ∧ State.reset.Inv

/-- Reset sets pc, status, delay, x[0], cp0 and memory as stated, and leaves every other register
to the launch (R320). -/
def Obligations.ResetState : Prop :=
  ∀ (l : Launch),
    (State.ofLaunch l).pc = l.resetPc ∧ (State.ofLaunch l).status = .running ∧
    (State.ofLaunch l).delay = none ∧ (State.ofLaunch l).readGpr 0#5 = 0#32 ∧
    (∀ r : Reg, r ≠ 0#5 → (State.ofLaunch l).readGpr r = l.gpr[r.toNat]'r.isLt) ∧
    (State.ofLaunch l).hi = l.hi ∧ (State.ofLaunch l).lo = l.lo ∧
    (∀ f : FReg, (State.ofLaunch l).readFpr f = l.fpr[f.toNat]'f.isLt) ∧
    (∀ c : CReg, (State.ofLaunch l).readCp0 c = l.cp0Init[c.toNat]'c.isLt) ∧
    (∀ a : Word, (State.ofLaunch l).byteAt a = Memory.read l.mem a.toNat) ∧
    (State.ofLaunch l).cfg = l.cfg

/-- A word placed at pc by withFetchWord is what the next step runs; beside its four bytes only
mapped and text change (60_exceptions.md section 9 (R307), 20_memory.md section 3 (R55)). That a
word is placed so is the model's choice (log 5, DESIGN CHOICE), and which bytes it puts in text is
log 6 (DEDUCED). -/
def Obligations.PlacedWordRunsNext : Prop :=
  ∀ (s t : State) (w : Word) (i : Instr), s.status = .running → s.pc.toNat % 4 = 0 →
    Memory.wf s.mem = true → decodeWord w = .ok i → t = s.withFetchWord 32 w.toNat →
    step t = exec i t ∧ t.memRead32 s.pc = w ∧
    SameGprs [] s t ∧ SameFprs [] s t ∧ SameHiLo s t ∧ (∀ c, t.readCp0 c = s.readCp0 c) ∧
    t.pc = s.pc ∧ t.status = s.status ∧ t.delay = s.delay ∧ t.draws = s.draws ∧
    t.cfg.endian = s.cfg.endian ∧ t.cfg.delaySlots = s.cfg.delaySlots ∧
    SameMemory (Width.word.span s.pc) s t ∧
    (∀ a ∈ Width.word.span s.pc, t.isMapped a = true ∧ t.inText a = true) ∧
    (∀ a, a ∉ Width.word.span s.pc → t.isMapped a = s.isMapped a ∧ t.inText a = s.inText a)

/-- No step changes the byte order, any other launch parameter, or a coprocessor-0 register (R54).
-/
def Obligations.LaunchParametersAreFixed : Prop :=
  ∀ (s t : State), step s = .next t →
    t.cfg.endian = s.cfg.endian ∧ t.cfg = s.cfg ∧ ∀ c, t.readCp0 c = s.readCp0 c

/-- An instruction changes no register but its destination and no byte but those it stores
(10_state.md section 1 (R20), 10_state.md section 4 (R27), 20_memory.md section 2 (R53),
20_memory.md section 3 (R57)). -/
def Obligations.OnlyNamedDestinationsChange : Prop :=
  ∀ (i : Instr) (s t : State), exec i s = .next t →
    SameGprs i.gprDest.toList s t ∧ SameFprs i.fprDest.toList s t ∧
    (i.writesHiLo = false → SameHiLo s t) ∧
    (i.storeAccess = none → SameMemory [] s t) ∧
    (∀ w rs imm, i.storeAccess = some (w, rs, imm) →
      SameMemory (w.span (displaced (s.readGpr rs) imm)) s t) ∧
    (∀ c, t.readCp0 c = s.readCp0 c) ∧ t.cfg = s.cfg

/-- $0 reads zero and discards writes; the other 31 registers hold what is written (R21). -/
def Obligations.ZeroRegisterIsHardwired : Prop :=
  (∀ (s : State) (v : Word), s.readGpr 0#5 = 0#32 ∧ s.writeGpr 0#5 v = s) ∧
  (∀ (s : State) (r q : Reg) (v : Word), r ≠ 0#5 →
    (s.writeGpr r v).readGpr r = v ∧ (q ≠ r → (s.writeGpr r v).readGpr q = s.readGpr q)) ∧
  (∀ (s : State) (imm : Imm) (rs : Reg),
    LoadRaises (.lw 0#5 imm rs) s .word (displaced (s.readGpr rs) imm) ∧
    (s.CanLoad .word (displaced (s.readGpr rs) imm) → FallsThrough (.lw 0#5 imm rs) s)) ∧
  (∀ (s : State) (rs rt : Reg), ¬ Fits32 ((s.readGpr rs).toInt + (s.readGpr rt).toInt) →
    Raises (.add 0#5 rs rt) s .integerOverflow)

/-- An instruction that is no branch or jump leaves pc + 4, modulo 2^32, without delay slots
(10_state.md section 3 (R26)). -/
def Obligations.NextPc : Prop :=
  ∀ (i : Instr) (s t : State), s.status = .running → s.cfg.delaySlots = false →
    i.isTransfer = false → exec i s = .next t → t.status = .running →
    t.pc.toNat = (s.pc.toNat + 4) % 2 ^ 32 ∧ t.delay = none

/-- Address arithmetic wraps modulo 2^32 and an aligned access stays inside the address space
(R61). -/
def Obligations.AddressArithmeticWraps : Prop :=
  (∀ (base : Word) (imm : Imm),
    ((displaced base imm).toNat : Int) = ((base.toNat : Int) + imm.toInt) % 2 ^ 32) ∧
  (∀ (w : Width) (a : Word), a.toNat % w.bytes = 0 → a.toNat + w.bytes - 1 ≤ 2 ^ 32 - 1 ∧
    (w.span a).map BitVec.toNat = (List.range w.bytes).map (a.toNat + ·))

/-- add, sub and addi give the exact signed result or raise IntegerOverflow with no write (R120,
R122, R180). -/
def Obligations.OverflowDetectingArithmetic : Prop :=
  ∀ (s : State) (rd rs rt : Reg) (imm : Imm),
    Coded (0#6 ++ rs ++ rt ++ rd ++ 0#5 ++ 0x20#6) (.add rd rs rt) ∧
    Coded (0#6 ++ rs ++ rt ++ rd ++ 0#5 ++ 0x22#6) (.sub rd rs rt) ∧
    Coded (0x08#6 ++ rs ++ rt ++ imm) (.addi rt rs imm) ∧
    (Fits32 ((s.readGpr rs).toInt + (s.readGpr rt).toInt) → SetsGpr (.add rd rs rt) s rd
      (BitVec.ofInt 32 ((s.readGpr rs).toInt + (s.readGpr rt).toInt))) ∧
    (¬ Fits32 ((s.readGpr rs).toInt + (s.readGpr rt).toInt) →
      Raises (.add rd rs rt) s .integerOverflow) ∧
    (Fits32 ((s.readGpr rs).toInt - (s.readGpr rt).toInt) → SetsGpr (.sub rd rs rt) s rd
      (BitVec.ofInt 32 ((s.readGpr rs).toInt - (s.readGpr rt).toInt))) ∧
    (¬ Fits32 ((s.readGpr rs).toInt - (s.readGpr rt).toInt) →
      Raises (.sub rd rs rt) s .integerOverflow) ∧
    (Fits32 ((s.readGpr rs).toInt + imm.toInt) → SetsGpr (.addi rt rs imm) s rt
      (BitVec.ofInt 32 ((s.readGpr rs).toInt + imm.toInt))) ∧
    (¬ Fits32 ((s.readGpr rs).toInt + imm.toInt) → Raises (.addi rt rs imm) s .integerOverflow)

/-- addu, subu and addiu wrap modulo 2^32 and never raise (R121, R123, R181). -/
def Obligations.WrappingArithmetic : Prop :=
  ∀ (s : State) (rd rs rt : Reg) (imm : Imm),
    Coded (0#6 ++ rs ++ rt ++ rd ++ 0#5 ++ 0x21#6) (.addu rd rs rt) ∧
    Coded (0#6 ++ rs ++ rt ++ rd ++ 0#5 ++ 0x23#6) (.subu rd rs rt) ∧
    Coded (0x09#6 ++ rs ++ rt ++ imm) (.addiu rt rs imm) ∧
    SetsGpr (.addu rd rs rt) s rd
      (BitVec.ofNat 32 (((s.readGpr rs).toNat + (s.readGpr rt).toNat) % 2 ^ 32)) ∧
    SetsGpr (.subu rd rs rt) s rd
      (BitVec.ofNat 32 ((2 ^ 32 + (s.readGpr rs).toNat - (s.readGpr rt).toNat) % 2 ^ 32)) ∧
    SetsGpr (.addiu rt rs imm) s rt (BitVec.ofInt 32 ((s.readGpr rs).toInt + imm.toInt))

/-- and, or, xor, nor compute every bit of the result from the same bit of the sources (R124,
R125, R126, R127). -/
def Obligations.BitwiseRegisterLogic : Prop :=
  ∀ (s : State) (rd rs rt : Reg),
    Coded (0#6 ++ rs ++ rt ++ rd ++ 0#5 ++ 0x24#6) (.and rd rs rt) ∧
    Coded (0#6 ++ rs ++ rt ++ rd ++ 0#5 ++ 0x25#6) (.or rd rs rt) ∧
    Coded (0#6 ++ rs ++ rt ++ rd ++ 0#5 ++ 0x26#6) (.xor rd rs rt) ∧
    Coded (0#6 ++ rs ++ rt ++ rd ++ 0#5 ++ 0x27#6) (.nor rd rs rt) ∧
    (∃ v, SetsGpr (.and rd rs rt) s rd v ∧
      ∀ k, v.getLsbD k = ((s.readGpr rs).getLsbD k && (s.readGpr rt).getLsbD k)) ∧
    (∃ v, SetsGpr (.or rd rs rt) s rd v ∧
      ∀ k, v.getLsbD k = ((s.readGpr rs).getLsbD k || (s.readGpr rt).getLsbD k)) ∧
    (∃ v, SetsGpr (.xor rd rs rt) s rd v ∧
      ∀ k, v.getLsbD k = ((s.readGpr rs).getLsbD k != (s.readGpr rt).getLsbD k)) ∧
    (∃ v, SetsGpr (.nor rd rs rt) s rd v ∧
      ∀ k < 32, v.getLsbD k = !((s.readGpr rs).getLsbD k || (s.readGpr rt).getLsbD k))

/-- andi, ori, xori use the zero-extended immediate; lui puts it in the upper half over zeros
(R184, R185, R186, R187). -/
def Obligations.BitwiseImmediateLogic : Prop :=
  ∀ (s : State) (rt rs : Reg) (imm : Imm),
    Coded (0x0C#6 ++ rs ++ rt ++ imm) (.andi rt rs imm) ∧
    Coded (0x0D#6 ++ rs ++ rt ++ imm) (.ori rt rs imm) ∧
    Coded (0x0E#6 ++ rs ++ rt ++ imm) (.xori rt rs imm) ∧
    Coded (0x0F#6 ++ 0#5 ++ rt ++ imm) (.lui rt imm) ∧
    (∃ v, SetsGpr (.andi rt rs imm) s rt v ∧
      ∀ k, v.getLsbD k = (decide (k < 16) && (s.readGpr rs).getLsbD k && imm.getLsbD k)) ∧
    (∃ v, SetsGpr (.ori rt rs imm) s rt v ∧
      ∀ k, v.getLsbD k = ((s.readGpr rs).getLsbD k || (decide (k < 16) && imm.getLsbD k))) ∧
    (∃ v, SetsGpr (.xori rt rs imm) s rt v ∧
      ∀ k, v.getLsbD k = ((s.readGpr rs).getLsbD k != (decide (k < 16) && imm.getLsbD k))) ∧
    (∃ v, SetsGpr (.lui rt imm) s rt v ∧
      (∀ k < 16, v.getLsbD k = false) ∧ ∀ k < 16, v.getLsbD (16 + k) = imm.getLsbD k)

/-- slt, sltu, slti, sltiu write exactly 1 or 0 by the exact comparison (R128, R129, R182, R183).
-/
def Obligations.SetOnLessThan : Prop :=
  ∀ (s : State) (rd rs rt : Reg) (imm : Imm),
    Coded (0#6 ++ rs ++ rt ++ rd ++ 0#5 ++ 0x2A#6) (.slt rd rs rt) ∧
    Coded (0#6 ++ rs ++ rt ++ rd ++ 0#5 ++ 0x2B#6) (.sltu rd rs rt) ∧
    Coded (0x0A#6 ++ rs ++ rt ++ imm) (.slti rt rs imm) ∧
    Coded (0x0B#6 ++ rs ++ rt ++ imm) (.sltiu rt rs imm) ∧
    SetsGpr (.slt rd rs rt) s rd
      (if (s.readGpr rs).toInt < (s.readGpr rt).toInt then 1#32 else 0#32) ∧
    SetsGpr (.sltu rd rs rt) s rd
      (if (s.readGpr rs).toNat < (s.readGpr rt).toNat then 1#32 else 0#32) ∧
    SetsGpr (.slti rt rs imm) s rt (if (s.readGpr rs).toInt < imm.toInt then 1#32 else 0#32) ∧
    SetsGpr (.sltiu rt rs imm) s rt
      (if ((s.readGpr rs).toNat : Int) < imm.toInt % 2 ^ 32 then 1#32 else 0#32)

/-- sll, srl, sra shift x[rt] by sa as multiplication and floor division by a power of two (R140,
R141, R142). -/
def Obligations.ImmediateShifts : Prop :=
  ∀ (s : State) (rd rt : Reg) (sa : Shamt),
    Coded (0#6 ++ 0#5 ++ rt ++ rd ++ sa ++ 0x00#6) (.sll rd rt sa) ∧
    Coded (0#6 ++ 0#5 ++ rt ++ rd ++ sa ++ 0x02#6) (.srl rd rt sa) ∧
    Coded (0#6 ++ 0#5 ++ rt ++ rd ++ sa ++ 0x03#6) (.sra rd rt sa) ∧
    (∃ v, SetsGpr (.sll rd rt sa) s rd v ∧
      v.toNat = (s.readGpr rt).toNat * 2 ^ sa.toNat % 2 ^ 32) ∧
    (∃ v, SetsGpr (.srl rd rt sa) s rd v ∧ v.toNat = (s.readGpr rt).toNat / 2 ^ sa.toNat) ∧
    (∃ v, SetsGpr (.sra rd rt sa) s rd v ∧ v.toInt = (s.readGpr rt).toInt / 2 ^ sa.toNat)

/-- sllv, srlv, srav shift x[rt] by the low five bits of x[rs] (R143, R144, R145). -/
def Obligations.VariableShifts : Prop :=
  ∀ (s : State) (rd rt rs : Reg),
    Coded (0#6 ++ rs ++ rt ++ rd ++ 0#5 ++ 0x04#6) (.sllv rd rt rs) ∧
    Coded (0#6 ++ rs ++ rt ++ rd ++ 0#5 ++ 0x06#6) (.srlv rd rt rs) ∧
    Coded (0#6 ++ rs ++ rt ++ rd ++ 0#5 ++ 0x07#6) (.srav rd rt rs) ∧
    (∃ v, SetsGpr (.sllv rd rt rs) s rd v ∧
      v.toNat = (s.readGpr rt).toNat * 2 ^ ((s.readGpr rs).toNat % 32) % 2 ^ 32) ∧
    (∃ v, SetsGpr (.srlv rd rt rs) s rd v ∧ v.toNat = (s.readGpr rt).toNat / 2 ^ ((s.readGpr rs).toNat % 32)) ∧
    (∃ v, SetsGpr (.srav rd rt rs) s rd v ∧ v.toInt = (s.readGpr rt).toInt / 2 ^ ((s.readGpr rs).toNat % 32))

/-- mult and multu leave the exact 64-bit product in HI and LO (R150, R151). -/
def Obligations.ExactProducts : Prop :=
  ∀ (s : State) (rs rt : Reg),
    Coded (0#6 ++ rs ++ rt ++ 0#5 ++ 0#5 ++ 0x18#6) (.mult rs rt) ∧
    Coded (0#6 ++ rs ++ rt ++ 0#5 ++ 0#5 ++ 0x19#6) (.multu rs rt) ∧
    (∃ hi lo : Word, SetsHiLo (.mult rs rt) s hi lo ∧
      (hi ++ lo).toInt = (s.readGpr rs).toInt * (s.readGpr rt).toInt) ∧
    (∃ hi lo : Word, SetsHiLo (.multu rs rt) s hi lo ∧
      (hi ++ lo).toNat = (s.readGpr rs).toNat * (s.readGpr rt).toNat)

/-- div leaves the quotient rounded toward zero and its remainder, draws for a zero divisor, and
never raises (42_rtype_muldiv.md (R152, R159)). Which draw each register takes for a zero divisor,
and the counter of draws, are the model's choice (log 10, DESIGN CHOICE). -/
def Obligations.SignedDivision : Prop :=
  ∀ (s : State) (rs rt : Reg),
    Coded (0#6 ++ rs ++ rt ++ 0#5 ++ 0#5 ++ 0x1A#6) (.div rs rt) ∧
    (s.readGpr rt ≠ 0#32 → ¬ (s.readGpr rs = 0x80000000#32 ∧ s.readGpr rt = 0xFFFFFFFF#32) →
      ∃ hi lo : Word, SetsHiLo (.div rs rt) s hi lo ∧
        (s.readGpr rs).toInt = lo.toInt * (s.readGpr rt).toInt + hi.toInt ∧
        hi.toInt.natAbs < (s.readGpr rt).toInt.natAbs ∧
        (0 ≤ (s.readGpr rs).toInt → 0 ≤ hi.toInt) ∧ ((s.readGpr rs).toInt ≤ 0 → hi.toInt ≤ 0)) ∧
    (s.readGpr rs = 0x80000000#32 → s.readGpr rt = 0xFFFFFFFF#32 →
      SetsHiLo (.div rs rt) s 0#32 0x80000000#32) ∧
    (s.readGpr rt = 0#32 → ∃ t, exec (.div rs rt) s = .next t ∧
      WritesHiLo (Config.any32 (s.draws + 1)) (Config.any32 s.draws) s t ∧
      t.draws = s.draws + 2 ∧ MovesOn s t)

/-- divu leaves the floor quotient and its remainder, draws for a zero divisor, and never raises
(42_rtype_muldiv.md (R153, R159)). Which draw each register takes for a zero divisor, and the
counter of draws, are the model's choice (log 10, DESIGN CHOICE). -/
def Obligations.UnsignedDivision : Prop :=
  ∀ (s : State) (rs rt : Reg),
    Coded (0#6 ++ rs ++ rt ++ 0#5 ++ 0#5 ++ 0x1B#6) (.divu rs rt) ∧
    (s.readGpr rt ≠ 0#32 → ∃ hi lo : Word, SetsHiLo (.divu rs rt) s hi lo ∧
      (s.readGpr rs).toNat = lo.toNat * (s.readGpr rt).toNat + hi.toNat ∧
      hi.toNat < (s.readGpr rt).toNat) ∧
    (s.readGpr rt = 0#32 → ∃ t, exec (.divu rs rt) s = .next t ∧
      WritesHiLo (Config.any32 (s.draws + 1)) (Config.any32 s.draws) s t ∧
      t.draws = s.draws + 2 ∧ MovesOn s t)

/-- mfhi, mflo copy HI, LO to a register; mthi, mtlo write one of them and leave the other (R154,
R155, R156, R157). -/
def Obligations.HiLoMoves : Prop :=
  ∀ (s : State) (rd rs : Reg),
    Coded (0#6 ++ 0#5 ++ 0#5 ++ rd ++ 0#5 ++ 0x10#6) (.mfhi rd) ∧
    Coded (0#6 ++ 0#5 ++ 0#5 ++ rd ++ 0#5 ++ 0x12#6) (.mflo rd) ∧
    Coded (0#6 ++ rs ++ 0#5 ++ 0#5 ++ 0#5 ++ 0x11#6) (.mthi rs) ∧
    Coded (0#6 ++ rs ++ 0#5 ++ 0#5 ++ 0#5 ++ 0x13#6) (.mtlo rs) ∧
    SetsGpr (.mfhi rd) s rd s.hi ∧ SetsGpr (.mflo rd) s rd s.lo ∧
    SetsHiLo (.mthi rs) s (s.readGpr rs) s.lo ∧ SetsHiLo (.mtlo rs) s s.hi (s.readGpr rs)

/-- jr and jalr jump to the whole value of x[rs], read before jalr writes its link (R170, R171,
R174). -/
def Obligations.RegisterJumps : Prop :=
  ∀ (s : State) (rd rs : Reg),
    Coded (0#6 ++ rs ++ 0#5 ++ 0#5 ++ 0#5 ++ 0x08#6) (.jr rs) ∧
    Coded (0#6 ++ rs ++ 0#5 ++ rd ++ 0#5 ++ 0x09#6) (.jalr rd rs) ∧
    (¬ s.InSlot → Jumps (.jr rs) s (s.readGpr rs) ∧
      (s.cfg.delaySlots = false → LinksAndJumps (.jalr rd rs) s rd (s.pc + 4#32) (s.readGpr rs)) ∧
      (s.cfg.delaySlots = true → LinksAndJumps (.jalr rd rs) s rd (s.pc + 8#32) (s.readGpr rs))) ∧
    (s.status = .running → s.cfg.delaySlots = false → (s.readGpr rs).toNat % 4 ≠ 0 →
      ∃ t, exec (.jr rs) s = .next t ∧
        step t = .next (t.faulted (.addressError .fetch (s.readGpr rs))))

/-- syscall and break always take their exception, with the instruction's pc, and change nothing
else (R172, R173). -/
def Obligations.SystemCallAndBreakpoint : Prop :=
  ∀ (s : State),
    Coded 0x0000000C#32 .syscall ∧ Coded 0x0000000D#32 .brk ∧
    exec .syscall s = .next { s with status := .fault .systemCall s.pc } ∧
    exec .brk s = .next { s with status := .fault .breakpoint s.pc }

/-- beq and bne branch on all 32 bits to pc + 4 plus four times the signed offset, or fall through
(R200, R203, R204). -/
def Obligations.EqualityBranches : Prop :=
  ∀ (s : State) (rs rt : Reg) (imm : Imm),
    Coded (0x04#6 ++ rs ++ rt ++ imm) (.beq rs rt imm) ∧
    Coded (0x05#6 ++ rs ++ rt ++ imm) (.bne rs rt imm) ∧
    (s.pc.toNat % 4 = 0 → (s.pc + 4#32 + BitVec.ofInt 32 (4 * imm.toInt)).toNat % 4 = 0) ∧
    (-131072 ≤ 4 * imm.toInt ∧ 4 * imm.toInt ≤ 131068) ∧ (¬ s.InSlot →
    ((s.readGpr rs = s.readGpr rt) → Jumps (.beq rs rt imm) s (s.pc + 4#32 + BitVec.ofInt 32 (4 * imm.toInt))) ∧
    (¬ (s.readGpr rs = s.readGpr rt) → FallsThrough (.beq rs rt imm) s) ∧
    ((s.readGpr rs ≠ s.readGpr rt) → Jumps (.bne rs rt imm) s (s.pc + 4#32 + BitVec.ofInt 32 (4 * imm.toInt))) ∧
    (¬ (s.readGpr rs ≠ s.readGpr rt) → FallsThrough (.bne rs rt imm) s))

/-- blez, bgtz, bltz, bgez branch on the sign of x[rs], or fall through (R205, R206, R207, R208).
-/
def Obligations.SignBranches : Prop :=
  ∀ (s : State) (rs : Reg) (imm : Imm),
    Coded (0x06#6 ++ rs ++ 0#5 ++ imm) (.blez rs imm) ∧
    Coded (0x07#6 ++ rs ++ 0#5 ++ imm) (.bgtz rs imm) ∧
    Coded (0x01#6 ++ rs ++ 0#5 ++ imm) (.bltz rs imm) ∧
    Coded (0x01#6 ++ rs ++ 1#5 ++ imm) (.bgez rs imm) ∧ (¬ s.InSlot →
    (((s.readGpr rs).toInt ≤ 0) → Jumps (.blez rs imm) s (s.pc + 4#32 + BitVec.ofInt 32 (4 * imm.toInt))) ∧
    (¬ ((s.readGpr rs).toInt ≤ 0) → FallsThrough (.blez rs imm) s) ∧
    (((s.readGpr rs).toInt > 0) → Jumps (.bgtz rs imm) s (s.pc + 4#32 + BitVec.ofInt 32 (4 * imm.toInt))) ∧
    (¬ ((s.readGpr rs).toInt > 0) → FallsThrough (.bgtz rs imm) s) ∧
    (((s.readGpr rs).toInt < 0) → Jumps (.bltz rs imm) s (s.pc + 4#32 + BitVec.ofInt 32 (4 * imm.toInt))) ∧
    (¬ ((s.readGpr rs).toInt < 0) → FallsThrough (.bltz rs imm) s) ∧
    (((s.readGpr rs).toInt ≥ 0) → Jumps (.bgez rs imm) s (s.pc + 4#32 + BitVec.ofInt 32 (4 * imm.toInt))) ∧
    (¬ ((s.readGpr rs).toInt ≥ 0) → FallsThrough (.bgez rs imm) s))

/-- j and jal go to the target in the 256 MiB region of pc + 4; jal links in x[31] (R240, R241,
R242). -/
def Obligations.RegionJumps : Prop :=
  ∀ (s : State) (target : Target),
    Coded (0x02#6 ++ target) (.j target) ∧ Coded (0x03#6 ++ target) (.jal target) ∧
    ∃ g : Word, g.toNat = (s.pc + 4#32).toNat / 2 ^ 28 * 2 ^ 28 + target.toNat * 4 ∧
      (¬ s.InSlot → Jumps (.j target) s g ∧
        (s.cfg.delaySlots = false → LinksAndJumps (.jal target) s 31#5 (s.pc + 4#32) g) ∧
        (s.cfg.delaySlots = true → LinksAndJumps (.jal target) s 31#5 (s.pc + 8#32) g))

/-- A branch or jump in a delay slot raises ReservedInstruction with its own word, taken or not
(45_itype_branch.md (R202), 60_exceptions.md section 2 (R281)). -/
def Obligations.TransferInDelaySlotRaises : Prop :=
  ∀ (i : Instr) (s : State), i.isTransfer = true →
    (s.InSlot → Raises i s (.reservedInstruction (encode i))) ∧
    (¬ s.InSlot → ∃ t, exec i s = .next t ∧ t.status = s.status)

/-- With delay slots the instruction at pc + 4 runs after a taken transfer, and then its target
(45_itype_branch.md (R202), 70_reset_and_hazards.md section 3 (R332)). -/
def Obligations.DelaySlotRunsBeforeTarget : Prop :=
  ∀ (i k : Instr) (s t u : State) (g : Word), s.cfg.delaySlots = true → ¬ s.InSlot →
    s.status = .running → i.isTransfer = true → exec i s = .next t → t.delay = some g →
    k.isTransfer = false → exec k t = .next u → u.status = .running →
    t.pc = s.pc + 4#32 ∧ u.pc = g ∧ u.delay = none

/-- lb and lbu load the byte at x[rs] + displacement, sign- or zero-extended (R217, R218). -/
def Obligations.ByteLoads : Prop :=
  ∀ (s : State) (rt rs : Reg) (imm : Imm),
    Coded (0x20#6 ++ rs ++ rt ++ imm) (.lb rt imm rs) ∧
    Coded (0x24#6 ++ rs ++ rt ++ imm) (.lbu rt imm rs) ∧
    (s.isMapped (displaced (s.readGpr rs) imm) = true →
      SetsGpr (.lb rt imm rs) s rt (BitVec.ofInt 32 (s.byteAt (displaced (s.readGpr rs) imm)).toInt) ∧
      SetsGpr (.lbu rt imm rs) s rt (BitVec.ofNat 32 (s.byteAt (displaced (s.readGpr rs) imm)).toNat)) ∧
    (s.isMapped (displaced (s.readGpr rs) imm) = false →
      Raises (.lb rt imm rs) s (.busError .load (displaced (s.readGpr rs) imm)) ∧
      Raises (.lbu rt imm rs) s (.busError .load (displaced (s.readGpr rs) imm)))

/-- lh and lhu load two bytes in the machine's byte order, sign- or zero-extended (R219, R220). -/
def Obligations.HalfwordLoads : Prop :=
  ∀ (s : State) (rt rs : Reg) (imm : Imm),
    Coded (0x21#6 ++ rs ++ rt ++ imm) (.lh rt imm rs) ∧
    Coded (0x25#6 ++ rs ++ rt ++ imm) (.lhu rt imm rs) ∧
    LoadRaises (.lh rt imm rs) s .half (displaced (s.readGpr rs) imm) ∧ LoadRaises (.lhu rt imm rs) s .half (displaced (s.readGpr rs) imm) ∧
    (s.CanLoad .half (displaced (s.readGpr rs) imm) → ∃ h : Half,
      (s.cfg.endian = .little →
        h.toNat = (s.byteAt (displaced (s.readGpr rs) imm)).toNat + 256 * (s.byteAt ((displaced (s.readGpr rs) imm) + 1#32)).toNat) ∧
      (s.cfg.endian = .big →
        h.toNat = 256 * (s.byteAt (displaced (s.readGpr rs) imm)).toNat + (s.byteAt ((displaced (s.readGpr rs) imm) + 1#32)).toNat) ∧
      SetsGpr (.lh rt imm rs) s rt (BitVec.ofInt 32 h.toInt) ∧
      SetsGpr (.lhu rt imm rs) s rt (BitVec.ofNat 32 h.toNat))

/-- lw and lwc1 load four bytes in the machine's byte order, unchanged, odd registers included
(R221, R225). -/
def Obligations.WordLoads : Prop :=
  ∀ (s : State) (rt rs : Reg) (ft : FReg) (imm : Imm),
    Coded (0x23#6 ++ rs ++ rt ++ imm) (.lw rt imm rs) ∧
    Coded (0x31#6 ++ rs ++ ft ++ imm) (.lwc1 ft imm rs) ∧
    LoadRaises (.lw rt imm rs) s .word (displaced (s.readGpr rs) imm) ∧ LoadRaises (.lwc1 ft imm rs) s .word (displaced (s.readGpr rs) imm) ∧
    (s.CanLoad .word (displaced (s.readGpr rs) imm) → ∃ v : Word,
      (s.cfg.endian = .little → v.toNat = (s.byteAt (displaced (s.readGpr rs) imm)).toNat +
        2 ^ 8 * (s.byteAt ((displaced (s.readGpr rs) imm) + 1#32)).toNat +
        2 ^ 16 * (s.byteAt ((displaced (s.readGpr rs) imm) + 2#32)).toNat +
        2 ^ 24 * (s.byteAt ((displaced (s.readGpr rs) imm) + 3#32)).toNat) ∧
      (s.cfg.endian = .big → v.toNat = 2 ^ 24 * (s.byteAt (displaced (s.readGpr rs) imm)).toNat +
        2 ^ 16 * (s.byteAt ((displaced (s.readGpr rs) imm) + 1#32)).toNat +
        2 ^ 8 * (s.byteAt ((displaced (s.readGpr rs) imm) + 2#32)).toNat +
        (s.byteAt ((displaced (s.readGpr rs) imm) + 3#32)).toNat) ∧
      SetsGpr (.lw rt imm rs) s rt v ∧ SetsFpr (.lwc1 ft imm rs) s ft v)

/-- sb and sh store the low byte or halfword in the machine's byte order, and change nothing else
(46_itype_loadstore.md Stores (R222, R223), 20_memory.md section 5 (R70), 92_eei_decisions.md
D18). Which bytes lie in text is the model's reading (log 6, DEDUCED): those of each word whose
address is in text, which D18 calls a set of word addresses. -/
def Obligations.ByteAndHalfwordStores : Prop :=
  ∀ (s : State) (rt rs : Reg) (imm : Imm), Memory.wf s.mem = true →
    Coded (0x28#6 ++ rs ++ rt ++ imm) (.sb rt imm rs) ∧
    Coded (0x29#6 ++ rs ++ rt ++ imm) (.sh rt imm rs) ∧
    StoreRaises (.sb rt imm rs) s .byte (displaced (s.readGpr rs) imm) ∧ StoreRaises (.sh rt imm rs) s .half (displaced (s.readGpr rs) imm) ∧
    (s.CanStore .byte (displaced (s.readGpr rs) imm) → ∃ t, exec (.sb rt imm rs) s = .next t ∧
      WritesMemory [(displaced (s.readGpr rs) imm)] s t ∧ MovesOn s t ∧
      (t.byteAt (displaced (s.readGpr rs) imm)).toNat = (s.readGpr rt).toNat % 256) ∧
    (s.CanStore .half (displaced (s.readGpr rs) imm) → ∃ t, exec (.sh rt imm rs) s = .next t ∧
      WritesMemory [(displaced (s.readGpr rs) imm), (displaced (s.readGpr rs) imm) + 1#32] s t ∧ MovesOn s t ∧
      (s.cfg.endian = .little → (t.byteAt (displaced (s.readGpr rs) imm)).toNat = (s.readGpr rt).toNat % 256 ∧
        (t.byteAt ((displaced (s.readGpr rs) imm) + 1#32)).toNat = (s.readGpr rt).toNat / 256 % 256) ∧
      (s.cfg.endian = .big → (t.byteAt (displaced (s.readGpr rs) imm)).toNat = (s.readGpr rt).toNat / 256 % 256 ∧
        (t.byteAt ((displaced (s.readGpr rs) imm) + 1#32)).toNat = (s.readGpr rt).toNat % 256))

/-- sw and swc1 store all 32 bits in the machine's byte order, and change nothing else
(46_itype_loadstore.md Stores (R224), 46_itype_loadstore.md Coprocessor-1 loads and stores (R226),
20_memory.md section 5 (R70), 92_eei_decisions.md D18). Which bytes lie in text is the model's
reading (log 6, DEDUCED): those of each word whose address is in text, which D18 calls a set of
word addresses. -/
def Obligations.WordStores : Prop :=
  ∀ (s : State) (rt rs : Reg) (ft : FReg) (imm : Imm), Memory.wf s.mem = true →
    Coded (0x2B#6 ++ rs ++ rt ++ imm) (.sw rt imm rs) ∧
    Coded (0x39#6 ++ rs ++ ft ++ imm) (.swc1 ft imm rs) ∧
    StoreRaises (.sw rt imm rs) s .word (displaced (s.readGpr rs) imm) ∧ StoreRaises (.swc1 ft imm rs) s .word (displaced (s.readGpr rs) imm) ∧
    (s.CanStore .word (displaced (s.readGpr rs) imm) → ∃ t, exec (.sw rt imm rs) s = .next t ∧
      WritesMemory [(displaced (s.readGpr rs) imm), (displaced (s.readGpr rs) imm) + 1#32,
        (displaced (s.readGpr rs) imm) + 2#32, (displaced (s.readGpr rs) imm) + 3#32] s t ∧ MovesOn s t ∧
      (s.cfg.endian = .little → (t.byteAt (displaced (s.readGpr rs) imm)).toNat = (s.readGpr rt).toNat % 256 ∧
        (t.byteAt ((displaced (s.readGpr rs) imm) + 1#32)).toNat = (s.readGpr rt).toNat / 2 ^ 8 % 256 ∧
        (t.byteAt ((displaced (s.readGpr rs) imm) + 2#32)).toNat = (s.readGpr rt).toNat / 2 ^ 16 % 256 ∧
        (t.byteAt ((displaced (s.readGpr rs) imm) + 3#32)).toNat = (s.readGpr rt).toNat / 2 ^ 24) ∧
      (s.cfg.endian = .big → (t.byteAt (displaced (s.readGpr rs) imm)).toNat = (s.readGpr rt).toNat / 2 ^ 24 ∧
        (t.byteAt ((displaced (s.readGpr rs) imm) + 1#32)).toNat = (s.readGpr rt).toNat / 2 ^ 16 % 256 ∧
        (t.byteAt ((displaced (s.readGpr rs) imm) + 2#32)).toNat = (s.readGpr rt).toNat / 2 ^ 8 % 256 ∧
        (t.byteAt ((displaced (s.readGpr rs) imm) + 3#32)).toNat = (s.readGpr rt).toNat % 256)) ∧
    (s.CanStore .word (displaced (s.readGpr rs) imm) → ∃ t, exec (.swc1 ft imm rs) s = .next t ∧
      WritesMemory [(displaced (s.readGpr rs) imm), (displaced (s.readGpr rs) imm) + 1#32,
        (displaced (s.readGpr rs) imm) + 2#32, (displaced (s.readGpr rs) imm) + 3#32] s t ∧ MovesOn s t ∧
      (s.cfg.endian = .little → (t.byteAt (displaced (s.readGpr rs) imm)).toNat = (s.readFpr ft).toNat % 256 ∧
        (t.byteAt ((displaced (s.readGpr rs) imm) + 1#32)).toNat = (s.readFpr ft).toNat / 2 ^ 8 % 256 ∧
        (t.byteAt ((displaced (s.readGpr rs) imm) + 2#32)).toNat = (s.readFpr ft).toNat / 2 ^ 16 % 256 ∧
        (t.byteAt ((displaced (s.readGpr rs) imm) + 3#32)).toNat = (s.readFpr ft).toNat / 2 ^ 24) ∧
      (s.cfg.endian = .big → (t.byteAt (displaced (s.readGpr rs) imm)).toNat = (s.readFpr ft).toNat / 2 ^ 24 ∧
        (t.byteAt ((displaced (s.readGpr rs) imm) + 1#32)).toNat = (s.readFpr ft).toNat / 2 ^ 16 % 256 ∧
        (t.byteAt ((displaced (s.readGpr rs) imm) + 2#32)).toNat = (s.readFpr ft).toNat / 2 ^ 8 % 256 ∧
        (t.byteAt ((displaced (s.readGpr rs) imm) + 3#32)).toNat = (s.readFpr ft).toNat % 256))

/-- Narrow reads of a stored word give its bytes and halves by byte order; a narrow store merges
(R58). -/
def Obligations.MixedWidthReads : Prop :=
  (∀ (s : State) (a : Word) (b : Byte), SameMemory [a] s (s.memWrite8 a b)) ∧
  (∀ (s : State) (a : Word) (h : Half), SameMemory [a, a + 1#32] s (s.memWrite16 a h)) ∧
  ∀ (s : State) (a : Word), Memory.wf s.mem = true → a.toNat % 4 = 0 →
    (s.cfg.endian = .little →
      (s.memWrite32 a 0xAABBCCDD#32).memRead8 a = 0xDD#8 ∧
      (s.memWrite32 a 0xAABBCCDD#32).memRead8 (a + 1#32) = 0xCC#8 ∧
      (s.memWrite32 a 0xAABBCCDD#32).memRead8 (a + 2#32) = 0xBB#8 ∧
      (s.memWrite32 a 0xAABBCCDD#32).memRead8 (a + 3#32) = 0xAA#8 ∧
      (s.memWrite32 a 0xAABBCCDD#32).memRead16 a = 0xCCDD#16 ∧
      (s.memWrite32 a 0xAABBCCDD#32).memRead16 (a + 2#32) = 0xAABB#16 ∧
      ∀ (v : Word) (b : Byte) (h : Half),
        ((s.memWrite32 a v).memWrite8 a b).memRead32 a =
          v.extractLsb' 8 24 ++ b ∧
        ((s.memWrite32 a v).memWrite8 (a + 1#32) b).memRead32 a =
          v.extractLsb' 16 16 ++ b ++ v.extractLsb' 0 8 ∧
        ((s.memWrite32 a v).memWrite8 (a + 2#32) b).memRead32 a =
          v.extractLsb' 24 8 ++ b ++ v.extractLsb' 0 16 ∧
        ((s.memWrite32 a v).memWrite8 (a + 3#32) b).memRead32 a =
          b ++ v.extractLsb' 0 24 ∧
        ((s.memWrite32 a v).memWrite16 a h).memRead32 a =
          v.extractLsb' 16 16 ++ h ∧
        ((s.memWrite32 a v).memWrite16 (a + 2#32) h).memRead32 a =
          h ++ v.extractLsb' 0 16) ∧
    (s.cfg.endian = .big →
      (s.memWrite32 a 0xAABBCCDD#32).memRead8 a = 0xAA#8 ∧
      (s.memWrite32 a 0xAABBCCDD#32).memRead8 (a + 1#32) = 0xBB#8 ∧
      (s.memWrite32 a 0xAABBCCDD#32).memRead8 (a + 2#32) = 0xCC#8 ∧
      (s.memWrite32 a 0xAABBCCDD#32).memRead8 (a + 3#32) = 0xDD#8 ∧
      (s.memWrite32 a 0xAABBCCDD#32).memRead16 a = 0xAABB#16 ∧
      (s.memWrite32 a 0xAABBCCDD#32).memRead16 (a + 2#32) = 0xCCDD#16 ∧
      ∀ (v : Word) (b : Byte) (h : Half),
        ((s.memWrite32 a v).memWrite8 a b).memRead32 a =
          b ++ v.extractLsb' 0 24 ∧
        ((s.memWrite32 a v).memWrite8 (a + 1#32) b).memRead32 a =
          v.extractLsb' 24 8 ++ b ++ v.extractLsb' 0 16 ∧
        ((s.memWrite32 a v).memWrite8 (a + 2#32) b).memRead32 a =
          v.extractLsb' 16 16 ++ b ++ v.extractLsb' 0 8 ∧
        ((s.memWrite32 a v).memWrite8 (a + 3#32) b).memRead32 a =
          v.extractLsb' 8 24 ++ b ∧
        ((s.memWrite32 a v).memWrite16 a h).memRead32 a =
          h ++ v.extractLsb' 0 16 ∧
        ((s.memWrite32 a v).memWrite16 (a + 2#32) h).memRead32 a =
          v.extractLsb' 16 16 ++ h)

/-- A load right after a store to the same address gives the stored value, in either byte order
(20_memory.md section 3 (R64), 20_memory.md section 5 (R67)). -/
def Obligations.StoreThenLoad : Prop :=
  ∀ (s : State) (rt rd rs : Reg) (ft fd : FReg) (imm : Imm), Memory.wf s.mem = true →
    (s.CanStore .word (displaced (s.readGpr rs) imm) → ∃ t, exec (.sw rt imm rs) s = .next t ∧
      SetsGpr (.lw rd imm rs) t rd (s.readGpr rt)) ∧
    (s.CanStore .half (displaced (s.readGpr rs) imm) → ∃ t, exec (.sh rt imm rs) s = .next t ∧
      SetsGpr (.lhu rd imm rs) t rd (BitVec.ofNat 32 ((s.readGpr rt).toNat % 2 ^ 16))) ∧
    (s.CanStore .byte (displaced (s.readGpr rs) imm) → ∃ t, exec (.sb rt imm rs) s = .next t ∧
      SetsGpr (.lbu rd imm rs) t rd (BitVec.ofNat 32 ((s.readGpr rt).toNat % 2 ^ 8))) ∧
    (s.CanStore .word (displaced (s.readGpr rs) imm) → ∃ t, exec (.swc1 ft imm rs) s = .next t ∧
      SetsFpr (.lwc1 fd imm rs) t fd (s.readFpr ft))

/-- mfc0, mfc1, mtc1 copy 32 bits between register files, odd registers included (R250, R251,
R252). -/
def Obligations.CoprocessorMoves : Prop :=
  ∀ (s : State) (rt : Reg) (fs : FReg) (rd : CReg),
    Coded (0x10#6 ++ 0#5 ++ rt ++ rd ++ 0#5 ++ 0#6) (.mfc0 rt rd) ∧
    Coded (0x11#6 ++ 0#5 ++ rt ++ fs ++ 0#5 ++ 0#6) (.mfc1 rt fs) ∧
    Coded (0x11#6 ++ 4#5 ++ rt ++ fs ++ 0#5 ++ 0#6) (.mtc1 rt fs) ∧
    SetsGpr (.mfc0 rt rd) s rt (s.readCp0 rd) ∧ SetsGpr (.mfc1 rt fs) s rt (s.readFpr fs) ∧
    SetsFpr (.mtc1 rt fs) s fs (s.readGpr rt) ∧
    (∀ t, step s = .next t → t.readCp0 rd = s.readCp0 rd)

/-- add.s, sub.s, mul.s, div.s give their parameter of f[fs] and f[ft] on even registers and raise
on odd ones (R256, R257, R258, R259). -/
def Obligations.FpArithmetic : Prop :=
  ∀ (s : State) (fd fs ft : FReg),
    Coded (0x11#6 ++ 0x10#5 ++ ft ++ fs ++ fd ++ 0x00#6) (.addS fd fs ft) ∧
    Coded (0x11#6 ++ 0x10#5 ++ ft ++ fs ++ fd ++ 0x01#6) (.subS fd fs ft) ∧
    Coded (0x11#6 ++ 0x10#5 ++ ft ++ fs ++ fd ++ 0x02#6) (.mulS fd fs ft) ∧
    Coded (0x11#6 ++ 0x10#5 ++ ft ++ fs ++ fd ++ 0x03#6) (.divS fd fs ft) ∧
    (fd.toNat % 2 = 0 → fs.toNat % 2 = 0 → ft.toNat % 2 = 0 →
      SetsFpr (.addS fd fs ft) s fd (Config.fpAddS (s.readFpr fs) (s.readFpr ft))) ∧
    (fd.toNat % 2 = 1 ∨ fs.toNat % 2 = 1 ∨ ft.toNat % 2 = 1 →
      Raises (.addS fd fs ft) s (.reservedInstruction (encode (.addS fd fs ft)))) ∧
    (fd.toNat % 2 = 0 → fs.toNat % 2 = 0 → ft.toNat % 2 = 0 →
      SetsFpr (.subS fd fs ft) s fd (Config.fpSubS (s.readFpr fs) (s.readFpr ft))) ∧
    (fd.toNat % 2 = 1 ∨ fs.toNat % 2 = 1 ∨ ft.toNat % 2 = 1 →
      Raises (.subS fd fs ft) s (.reservedInstruction (encode (.subS fd fs ft)))) ∧
    (fd.toNat % 2 = 0 → fs.toNat % 2 = 0 → ft.toNat % 2 = 0 →
      SetsFpr (.mulS fd fs ft) s fd (Config.fpMulS (s.readFpr fs) (s.readFpr ft))) ∧
    (fd.toNat % 2 = 1 ∨ fs.toNat % 2 = 1 ∨ ft.toNat % 2 = 1 →
      Raises (.mulS fd fs ft) s (.reservedInstruction (encode (.mulS fd fs ft)))) ∧
    (fd.toNat % 2 = 0 → fs.toNat % 2 = 0 → ft.toNat % 2 = 0 →
      SetsFpr (.divS fd fs ft) s fd (Config.fpDivS (s.readFpr fs) (s.readFpr ft))) ∧
    (fd.toNat % 2 = 1 ∨ fs.toNat % 2 = 1 ∨ ft.toNat % 2 = 1 →
      Raises (.divS fd fs ft) s (.reservedInstruction (encode (.divS fd fs ft))))

/-- mov.s copies f[fs] bit for bit; cvt.s.w and cvt.w.s give their parameter; odd registers raise
(R260, R261, R262). -/
def Obligations.FpMoveAndConvert : Prop :=
  ∀ (s : State) (fd fs : FReg),
    Coded (0x11#6 ++ 0x10#5 ++ 0#5 ++ fs ++ fd ++ 0x06#6) (.movS fd fs) ∧
    Coded (0x11#6 ++ 0x14#5 ++ 0#5 ++ fs ++ fd ++ 0x20#6) (.cvtSW fd fs) ∧
    Coded (0x11#6 ++ 0x10#5 ++ 0#5 ++ fs ++ fd ++ 0x24#6) (.cvtWS fd fs) ∧
    (fd.toNat % 2 = 0 → fs.toNat % 2 = 0 → SetsFpr (.movS fd fs) s fd (s.readFpr fs)) ∧
    (fd.toNat % 2 = 1 ∨ fs.toNat % 2 = 1 →
      Raises (.movS fd fs) s (.reservedInstruction (encode (.movS fd fs)))) ∧
    (fd.toNat % 2 = 0 → fs.toNat % 2 = 0 → SetsFpr (.cvtSW fd fs) s fd (Config.fpCvtSW (s.readFpr fs))) ∧
    (fd.toNat % 2 = 1 ∨ fs.toNat % 2 = 1 →
      Raises (.cvtSW fd fs) s (.reservedInstruction (encode (.cvtSW fd fs)))) ∧
    (fd.toNat % 2 = 0 → fs.toNat % 2 = 0 → SetsFpr (.cvtWS fd fs) s fd (Config.fpCvtWS (s.readFpr fs))) ∧
    (fd.toNat % 2 = 1 ∨ fs.toNat % 2 = 1 →
      Raises (.cvtWS fd fs) s (.reservedInstruction (encode (.cvtWS fd fs))))

/-- A loaded, multiplied, divided or moved value is visible to the very next instruction (R330,
R331, R334). -/
def Obligations.ResultsVisibleToNextInstruction : Prop :=
  ∀ (s : State) (rt rd rs : Reg) (fs : FReg) (c : CReg) (imm : Imm),
    (rt ≠ 0#5 →
      (s.CanLoad .byte (displaced (s.readGpr rs) imm) → ∃ t, exec (.lb rt imm rs) s = .next t ∧
        SetsGpr (.or rd rt 0#5) t rd (BitVec.ofInt 32 (s.memRead8 (displaced (s.readGpr rs) imm)).toInt)) ∧
      (s.CanLoad .byte (displaced (s.readGpr rs) imm) → ∃ t, exec (.lbu rt imm rs) s = .next t ∧
        SetsGpr (.or rd rt 0#5) t rd (BitVec.ofNat 32 (s.memRead8 (displaced (s.readGpr rs) imm)).toNat)) ∧
      (s.CanLoad .half (displaced (s.readGpr rs) imm) → ∃ t, exec (.lh rt imm rs) s = .next t ∧
        SetsGpr (.or rd rt 0#5) t rd (BitVec.ofInt 32 (s.memRead16 (displaced (s.readGpr rs) imm)).toInt)) ∧
      (s.CanLoad .half (displaced (s.readGpr rs) imm) → ∃ t, exec (.lhu rt imm rs) s = .next t ∧
        SetsGpr (.or rd rt 0#5) t rd (BitVec.ofNat 32 (s.memRead16 (displaced (s.readGpr rs) imm)).toNat)) ∧
      (s.CanLoad .word (displaced (s.readGpr rs) imm) → ∃ t, exec (.lw rt imm rs) s = .next t ∧
        SetsGpr (.or rd rt 0#5) t rd (s.memRead32 (displaced (s.readGpr rs) imm))) ∧
      (∃ t, exec (.mfc1 rt fs) s = .next t ∧ SetsGpr (.or rd rt 0#5) t rd (s.readFpr fs)) ∧
      (∃ t, exec (.mfc0 rt c) s = .next t ∧ SetsGpr (.or rd rt 0#5) t rd (s.readCp0 c))) ∧
    (∃ t hi lo, exec (.mult rs rt) s = .next t ∧ WritesHiLo hi lo s t ∧
      SetsGpr (.mfhi rd) t rd hi ∧ SetsGpr (.mflo rd) t rd lo ∧
      (hi ++ lo).toInt = (s.readGpr rs).toInt * (s.readGpr rt).toInt) ∧
    (∃ t hi lo, exec (.multu rs rt) s = .next t ∧ WritesHiLo hi lo s t ∧
      SetsGpr (.mfhi rd) t rd hi ∧ SetsGpr (.mflo rd) t rd lo ∧
      (hi ++ lo).toNat = (s.readGpr rs).toNat * (s.readGpr rt).toNat) ∧
    (∃ t hi lo, exec (.div rs rt) s = .next t ∧ WritesHiLo hi lo s t ∧
      SetsGpr (.mfhi rd) t rd hi ∧ SetsGpr (.mflo rd) t rd lo ∧
      (s.readGpr rt ≠ 0#32 → ¬ (s.readGpr rs = 0x80000000#32 ∧ s.readGpr rt = 0xFFFFFFFF#32) →
        (s.readGpr rs).toInt = lo.toInt * (s.readGpr rt).toInt + hi.toInt ∧
        hi.toInt.natAbs < (s.readGpr rt).toInt.natAbs ∧
        (0 ≤ (s.readGpr rs).toInt → 0 ≤ hi.toInt) ∧ ((s.readGpr rs).toInt ≤ 0 → hi.toInt ≤ 0)) ∧
      (s.readGpr rs = 0x80000000#32 → s.readGpr rt = 0xFFFFFFFF#32 → hi = 0#32 ∧ lo = 0x80000000#32)) ∧
    (∃ t hi lo, exec (.divu rs rt) s = .next t ∧ WritesHiLo hi lo s t ∧
      SetsGpr (.mfhi rd) t rd hi ∧ SetsGpr (.mflo rd) t rd lo ∧
      (s.readGpr rt ≠ 0#32 →
        (s.readGpr rs).toNat = lo.toNat * (s.readGpr rt).toNat + hi.toNat ∧ hi.toNat < (s.readGpr rt).toNat)) ∧
    (∃ t, exec (.mtc1 rt fs) s = .next t ∧ SetsGpr (.mfc1 rd fs) t rd (s.readGpr rt)) ∧
    (s.CanLoad .word (displaced (s.readGpr rs) imm) → ∃ t, exec (.lwc1 fs imm rs) s = .next t ∧
      SetsGpr (.mfc1 rd fs) t rd (s.memRead32 (displaced (s.readGpr rs) imm)))

/-- jr $31 right after jal returns to the instruction after the jal (47_jtype.md (R242),
43_rtype_jump_system.md (R174)). -/
def Obligations.CallThenReturn : Prop :=
  ∀ (s : State) (target : Target), s.cfg.delaySlots = false →
    ∃ t u, exec (.jal target) s = .next t ∧ exec (.jr 31#5) t = .next u ∧ u.pc = s.pc + 4#32

/-- The branch offset an assembler computes from a label branches to that label, exactly in range
(R90). -/
def Obligations.BranchLabelRoundTrip : Prop :=
  ∀ (pc label : Word) (imm : Imm),
    (assembleBranch pc label = some imm → branchTarget pc imm = label) ∧
    assembleBranch pc (branchTarget pc imm) = some imm ∧
    ((∃ f, assembleBranch pc label = some f) ↔
      (label - (pc + 4#32)).toInt % 4 = 0 ∧ -131072 ≤ (label - (pc + 4#32)).toInt ∧
        (label - (pc + 4#32)).toInt ≤ 131068)

/-- The jump field an assembler computes from a label jumps to that label, exactly inside the
region (30_encoding.md section 3 (R91)). That an unaligned label is rejected is the model's choice
(log 19, DESIGN CHOICE); R91 names only the label outside the region. -/
def Obligations.JumpLabelRoundTrip : Prop :=
  ∀ (pc label : Word) (f : Target),
    (assembleJump pc label = some f →
      jumpTarget pc f = label ∧ f.toNat = label.toNat / 4 % 2 ^ 26) ∧
    assembleJump pc (jumpTarget pc f) = some f ∧
    ((∃ g, assembleJump pc label = some g) ↔
      label.toNat % 4 = 0 ∧ label.toNat / 2 ^ 28 = (pc + 4#32).toNat / 2 ^ 28)

/-- A run has ended exactly when status is a fault; only Breakpoint and SystemCall at an exit end
it normally (R306). -/
def Obligations.RunEnds : Prop :=
  ∀ (s : State) (exits : List Word),
    (s.runEnd exits = none ↔ s.status = .running) ∧
    (s.runEnd exits = some .normal ↔ ∃ pc ∈ exits,
      s.status = .fault .breakpoint pc ∨ s.status = .fault .systemCall pc)
end

