-- ==== Sys2Proof/Laws/Encoding.lean ====
section
/-! SUPPORT. Fields of encoded words, and words rebuilt from their fields. -/

namespace Sys2Proof

@[simp] theorem fieldOpcode_encodeR (a b c d : BitVec 5) (f : BitVec 6) :
    fieldOpcode (encodeR a b c d f) = 0#6 := by
  apply BitVec.eq_of_getLsbD_eq
  intro k hk
  simp only [fieldOpcode, encodeR, BitVec.getLsbD_extractLsb', BitVec.getLsbD_append]
  grind

@[simp] theorem fieldRs_encodeR (a b c d : BitVec 5) (f : BitVec 6) :
    fieldRs (encodeR a b c d f) = a := by
  apply BitVec.eq_of_getLsbD_eq
  intro k hk
  simp only [fieldRs, encodeR, BitVec.getLsbD_extractLsb', BitVec.getLsbD_append]
  grind

@[simp] theorem fieldRt_encodeR (a b c d : BitVec 5) (f : BitVec 6) :
    fieldRt (encodeR a b c d f) = b := by
  apply BitVec.eq_of_getLsbD_eq
  intro k hk
  simp only [fieldRt, encodeR, BitVec.getLsbD_extractLsb', BitVec.getLsbD_append]
  grind

@[simp] theorem fieldRd_encodeR (a b c d : BitVec 5) (f : BitVec 6) :
    fieldRd (encodeR a b c d f) = c := by
  apply BitVec.eq_of_getLsbD_eq
  intro k hk
  simp only [fieldRd, encodeR, BitVec.getLsbD_extractLsb', BitVec.getLsbD_append]
  grind

@[simp] theorem fieldSa_encodeR (a b c d : BitVec 5) (f : BitVec 6) :
    fieldSa (encodeR a b c d f) = d := by
  apply BitVec.eq_of_getLsbD_eq
  intro k hk
  simp only [fieldSa, encodeR, BitVec.getLsbD_extractLsb', BitVec.getLsbD_append]
  grind

@[simp] theorem fieldFunct_encodeR (a b c d : BitVec 5) (f : BitVec 6) :
    fieldFunct (encodeR a b c d f) = f := by
  apply BitVec.eq_of_getLsbD_eq
  intro k hk
  simp only [fieldFunct, encodeR, BitVec.getLsbD_extractLsb', BitVec.getLsbD_append]
  grind

@[simp] theorem fieldOpcode_encodeI (op : BitVec 6) (a b : BitVec 5) (imm : Imm) :
    fieldOpcode (encodeI op a b imm) = op := by
  apply BitVec.eq_of_getLsbD_eq
  intro k hk
  simp only [fieldOpcode, encodeI, BitVec.getLsbD_extractLsb', BitVec.getLsbD_append]
  grind

@[simp] theorem fieldRs_encodeI (op : BitVec 6) (a b : BitVec 5) (imm : Imm) :
    fieldRs (encodeI op a b imm) = a := by
  apply BitVec.eq_of_getLsbD_eq
  intro k hk
  simp only [fieldRs, encodeI, BitVec.getLsbD_extractLsb', BitVec.getLsbD_append]
  grind

@[simp] theorem fieldRt_encodeI (op : BitVec 6) (a b : BitVec 5) (imm : Imm) :
    fieldRt (encodeI op a b imm) = b := by
  apply BitVec.eq_of_getLsbD_eq
  intro k hk
  simp only [fieldRt, encodeI, BitVec.getLsbD_extractLsb', BitVec.getLsbD_append]
  grind

@[simp] theorem fieldImm_encodeI (op : BitVec 6) (a b : BitVec 5) (imm : Imm) :
    fieldImm (encodeI op a b imm) = imm := by
  apply BitVec.eq_of_getLsbD_eq
  intro k hk
  simp only [fieldImm, encodeI, BitVec.getLsbD_extractLsb', BitVec.getLsbD_append]
  grind

@[simp] theorem fieldOpcode_encodeJ (op : BitVec 6) (t : Target) :
    fieldOpcode (encodeJ op t) = op := by
  apply BitVec.eq_of_getLsbD_eq
  intro k hk
  simp only [fieldOpcode, encodeJ, BitVec.getLsbD_extractLsb', BitVec.getLsbD_append]
  grind

@[simp] theorem fieldTarget_encodeJ (op : BitVec 6) (t : Target) :
    fieldTarget (encodeJ op t) = t := by
  apply BitVec.eq_of_getLsbD_eq
  intro k hk
  simp only [fieldTarget, encodeJ, BitVec.getLsbD_extractLsb', BitVec.getLsbD_append]
  grind

@[simp] theorem fieldOpcode_encodeCop (op : BitVec 6) (a b c d : BitVec 5) (f : BitVec 6) :
    fieldOpcode (encodeCop op a b c d f) = op := by
  apply BitVec.eq_of_getLsbD_eq
  intro k hk
  simp only [fieldOpcode, encodeCop, BitVec.getLsbD_extractLsb', BitVec.getLsbD_append]
  grind

@[simp] theorem fieldRs_encodeCop (op : BitVec 6) (a b c d : BitVec 5) (f : BitVec 6) :
    fieldRs (encodeCop op a b c d f) = a := by
  apply BitVec.eq_of_getLsbD_eq
  intro k hk
  simp only [fieldRs, encodeCop, BitVec.getLsbD_extractLsb', BitVec.getLsbD_append]
  grind

@[simp] theorem fieldRt_encodeCop (op : BitVec 6) (a b c d : BitVec 5) (f : BitVec 6) :
    fieldRt (encodeCop op a b c d f) = b := by
  apply BitVec.eq_of_getLsbD_eq
  intro k hk
  simp only [fieldRt, encodeCop, BitVec.getLsbD_extractLsb', BitVec.getLsbD_append]
  grind

@[simp] theorem fieldRd_encodeCop (op : BitVec 6) (a b c d : BitVec 5) (f : BitVec 6) :
    fieldRd (encodeCop op a b c d f) = c := by
  apply BitVec.eq_of_getLsbD_eq
  intro k hk
  simp only [fieldRd, encodeCop, BitVec.getLsbD_extractLsb', BitVec.getLsbD_append]
  grind

@[simp] theorem fieldSa_encodeCop (op : BitVec 6) (a b c d : BitVec 5) (f : BitVec 6) :
    fieldSa (encodeCop op a b c d f) = d := by
  apply BitVec.eq_of_getLsbD_eq
  intro k hk
  simp only [fieldSa, encodeCop, BitVec.getLsbD_extractLsb', BitVec.getLsbD_append]
  grind

@[simp] theorem fieldFunct_encodeCop (op : BitVec 6) (a b c d : BitVec 5) (f : BitVec 6) :
    fieldFunct (encodeCop op a b c d f) = f := by
  apply BitVec.eq_of_getLsbD_eq
  intro k hk
  simp only [fieldFunct, encodeCop, BitVec.getLsbD_extractLsb', BitVec.getLsbD_append]
  grind

/-- A word is its six coprocessor-layout fields. -/
theorem encodeCop_fields (w : Word) :
    encodeCop (fieldOpcode w) (fieldRs w) (fieldRt w) (fieldRd w) (fieldSa w) (fieldFunct w) = w := by
  apply BitVec.eq_of_getLsbD_eq
  intro k hk
  simp only [encodeCop, fieldOpcode, fieldRs, fieldRt, fieldRd, fieldSa, fieldFunct,
    BitVec.getLsbD_extractLsb', BitVec.getLsbD_append]
  grind

/-- A word with opcode 000000 is its five other R-type fields. -/
theorem encodeR_fields (w : Word) (h : fieldOpcode w = 0#6) :
    encodeR (fieldRs w) (fieldRt w) (fieldRd w) (fieldSa w) (fieldFunct w) = w := by
  have hw := encodeCop_fields w
  rw [h] at hw
  exact hw

/-- A word is its four I-type fields. -/
theorem encodeI_fields (w : Word) :
    encodeI (fieldOpcode w) (fieldRs w) (fieldRt w) (fieldImm w) = w := by
  apply BitVec.eq_of_getLsbD_eq
  intro k hk
  simp only [encodeI, fieldOpcode, fieldRs, fieldRt, fieldImm, BitVec.getLsbD_extractLsb',
    BitVec.getLsbD_append]
  grind

/-- A word is its two J-type fields. -/
theorem encodeJ_fields (w : Word) : encodeJ (fieldOpcode w) (fieldTarget w) = w := by
  apply BitVec.eq_of_getLsbD_eq
  intro k hk
  simp only [encodeJ, fieldOpcode, fieldTarget, BitVec.getLsbD_extractLsb', BitVec.getLsbD_append]
  grind

/-- What `requireZero` accepts. -/
theorem requireZero_eq_ok {c : Bool} {i j : Instr} :
    requireZero c i = .ok j ↔ c = true ∧ i = j := by
  cases c <;> simp [requireZero]

/-- Laying a word out in memory order and reading it back gives the word. -/
theorem decode_bytesOfWord (e : Endian) (w : Word) (rest : List Byte) :
    decode e (bytesOfWord e w ++ rest) =
      match decodeWord w with
      | .ok i => .ok (i, rest)
      | .error r => .error r := by
  have h : ∀ e, wordOfBytes e (w.extractLsb' 0 8) (w.extractLsb' 8 8) (w.extractLsb' 16 8)
      (w.extractLsb' 24 8) = match e with
        | .little => w
        | .big => w.extractLsb' 0 8 ++ w.extractLsb' 8 8 ++ w.extractLsb' 16 8 ++ w.extractLsb' 24 8 := by
    intro e
    cases e
    · rfl
    · apply BitVec.eq_of_getLsbD_eq
      intro k hk
      simp only [wordOfBytes, BitVec.getLsbD_extractLsb', BitVec.getLsbD_append]
      grind
  have hb : wordOfBytes .big (w.extractLsb' 24 8) (w.extractLsb' 16 8) (w.extractLsb' 8 8)
      (w.extractLsb' 0 8) = w := h .little
  cases e
  · cases hd : decodeWord w <;> simp [bytesOfWord, decode, hb, hd]
  · cases hd : decodeWord w <;> simp [bytesOfWord, decode, h, hd]

end Sys2Proof
end

