-- ==== Sys2Proof/Laws/State.lean ====
section
/-! SUPPORT. One lemma per field per update, so that no proof unfolds a record update. -/

namespace Sys2Proof.Machine

/-! ### writeGpr -/

@[simp] theorem State.writeGpr_pc (s : State) (i : Reg) (v : Word) : (s.writeGpr i v).pc = s.pc := rfl
@[simp] theorem State.writeGpr_hi (s : State) (i : Reg) (v : Word) : (s.writeGpr i v).hi = s.hi := rfl
@[simp] theorem State.writeGpr_lo (s : State) (i : Reg) (v : Word) : (s.writeGpr i v).lo = s.lo := rfl
@[simp] theorem State.writeGpr_fpr (s : State) (i : Reg) (v : Word) : (s.writeGpr i v).fpr = s.fpr := rfl
@[simp] theorem State.writeGpr_cp0 (s : State) (i : Reg) (v : Word) : (s.writeGpr i v).cp0 = s.cp0 := rfl
@[simp] theorem State.writeGpr_mem (s : State) (i : Reg) (v : Word) : (s.writeGpr i v).mem = s.mem := rfl
@[simp] theorem State.writeGpr_status (s : State) (i : Reg) (v : Word) : (s.writeGpr i v).status = s.status := rfl
@[simp] theorem State.writeGpr_delay (s : State) (i : Reg) (v : Word) : (s.writeGpr i v).delay = s.delay := rfl
@[simp] theorem State.writeGpr_cfg (s : State) (i : Reg) (v : Word) : (s.writeGpr i v).cfg = s.cfg := rfl
@[simp] theorem State.writeGpr_draws (s : State) (i : Reg) (v : Word) : (s.writeGpr i v).draws = s.draws := rfl

/-! ### writeFpr -/

@[simp] theorem State.writeFpr_gpr (s : State) (i : FReg) (v : Word) : (s.writeFpr i v).gpr = s.gpr := rfl
@[simp] theorem State.writeFpr_pc (s : State) (i : FReg) (v : Word) : (s.writeFpr i v).pc = s.pc := rfl
@[simp] theorem State.writeFpr_hi (s : State) (i : FReg) (v : Word) : (s.writeFpr i v).hi = s.hi := rfl
@[simp] theorem State.writeFpr_lo (s : State) (i : FReg) (v : Word) : (s.writeFpr i v).lo = s.lo := rfl
@[simp] theorem State.writeFpr_cp0 (s : State) (i : FReg) (v : Word) : (s.writeFpr i v).cp0 = s.cp0 := rfl
@[simp] theorem State.writeFpr_mem (s : State) (i : FReg) (v : Word) : (s.writeFpr i v).mem = s.mem := rfl
@[simp] theorem State.writeFpr_status (s : State) (i : FReg) (v : Word) : (s.writeFpr i v).status = s.status := rfl
@[simp] theorem State.writeFpr_delay (s : State) (i : FReg) (v : Word) : (s.writeFpr i v).delay = s.delay := rfl
@[simp] theorem State.writeFpr_cfg (s : State) (i : FReg) (v : Word) : (s.writeFpr i v).cfg = s.cfg := rfl
@[simp] theorem State.writeFpr_draws (s : State) (i : FReg) (v : Word) : (s.writeFpr i v).draws = s.draws := rfl

/-! ### writeHi -/

@[simp] theorem State.writeHi_gpr (s : State) (v : Word) : (s.writeHi v).gpr = s.gpr := rfl
@[simp] theorem State.writeHi_pc (s : State) (v : Word) : (s.writeHi v).pc = s.pc := rfl
@[simp] theorem State.writeHi_hi (s : State) (v : Word) : (s.writeHi v).hi = v := rfl
@[simp] theorem State.writeHi_lo (s : State) (v : Word) : (s.writeHi v).lo = s.lo := rfl
@[simp] theorem State.writeHi_fpr (s : State) (v : Word) : (s.writeHi v).fpr = s.fpr := rfl
@[simp] theorem State.writeHi_cp0 (s : State) (v : Word) : (s.writeHi v).cp0 = s.cp0 := rfl
@[simp] theorem State.writeHi_mem (s : State) (v : Word) : (s.writeHi v).mem = s.mem := rfl
@[simp] theorem State.writeHi_status (s : State) (v : Word) : (s.writeHi v).status = s.status := rfl
@[simp] theorem State.writeHi_delay (s : State) (v : Word) : (s.writeHi v).delay = s.delay := rfl
@[simp] theorem State.writeHi_cfg (s : State) (v : Word) : (s.writeHi v).cfg = s.cfg := rfl
@[simp] theorem State.writeHi_draws (s : State) (v : Word) : (s.writeHi v).draws = s.draws := rfl

/-! ### writeLo -/

@[simp] theorem State.writeLo_gpr (s : State) (v : Word) : (s.writeLo v).gpr = s.gpr := rfl
@[simp] theorem State.writeLo_pc (s : State) (v : Word) : (s.writeLo v).pc = s.pc := rfl
@[simp] theorem State.writeLo_hi (s : State) (v : Word) : (s.writeLo v).hi = s.hi := rfl
@[simp] theorem State.writeLo_lo (s : State) (v : Word) : (s.writeLo v).lo = v := rfl
@[simp] theorem State.writeLo_fpr (s : State) (v : Word) : (s.writeLo v).fpr = s.fpr := rfl
@[simp] theorem State.writeLo_cp0 (s : State) (v : Word) : (s.writeLo v).cp0 = s.cp0 := rfl
@[simp] theorem State.writeLo_mem (s : State) (v : Word) : (s.writeLo v).mem = s.mem := rfl
@[simp] theorem State.writeLo_status (s : State) (v : Word) : (s.writeLo v).status = s.status := rfl
@[simp] theorem State.writeLo_delay (s : State) (v : Word) : (s.writeLo v).delay = s.delay := rfl
@[simp] theorem State.writeLo_cfg (s : State) (v : Word) : (s.writeLo v).cfg = s.cfg := rfl
@[simp] theorem State.writeLo_draws (s : State) (v : Word) : (s.writeLo v).draws = s.draws := rfl

/-! ### setByte -/

@[simp] theorem State.setByte_gpr (s : State) (a : Word) (v : Byte) : (s.setByte a v).gpr = s.gpr := rfl
@[simp] theorem State.setByte_pc (s : State) (a : Word) (v : Byte) : (s.setByte a v).pc = s.pc := rfl
@[simp] theorem State.setByte_hi (s : State) (a : Word) (v : Byte) : (s.setByte a v).hi = s.hi := rfl
@[simp] theorem State.setByte_lo (s : State) (a : Word) (v : Byte) : (s.setByte a v).lo = s.lo := rfl
@[simp] theorem State.setByte_fpr (s : State) (a : Word) (v : Byte) : (s.setByte a v).fpr = s.fpr := rfl
@[simp] theorem State.setByte_cp0 (s : State) (a : Word) (v : Byte) : (s.setByte a v).cp0 = s.cp0 := rfl
@[simp] theorem State.setByte_status (s : State) (a : Word) (v : Byte) : (s.setByte a v).status = s.status := rfl
@[simp] theorem State.setByte_delay (s : State) (a : Word) (v : Byte) : (s.setByte a v).delay = s.delay := rfl
@[simp] theorem State.setByte_cfg (s : State) (a : Word) (v : Byte) : (s.setByte a v).cfg = s.cfg := rfl
@[simp] theorem State.setByte_draws (s : State) (a : Word) (v : Byte) : (s.setByte a v).draws = s.draws := rfl

/-! ### advance -/

@[simp] theorem State.advance_gpr (s : State) : (s.advance).gpr = s.gpr := rfl
@[simp] theorem State.advance_pc (s : State) : (s.advance).pc = s.nextPc := rfl
@[simp] theorem State.advance_hi (s : State) : (s.advance).hi = s.hi := rfl
@[simp] theorem State.advance_lo (s : State) : (s.advance).lo = s.lo := rfl
@[simp] theorem State.advance_fpr (s : State) : (s.advance).fpr = s.fpr := rfl
@[simp] theorem State.advance_cp0 (s : State) : (s.advance).cp0 = s.cp0 := rfl
@[simp] theorem State.advance_mem (s : State) : (s.advance).mem = s.mem := rfl
@[simp] theorem State.advance_status (s : State) : (s.advance).status = s.status := rfl
@[simp] theorem State.advance_delay (s : State) : (s.advance).delay = none := rfl
@[simp] theorem State.advance_cfg (s : State) : (s.advance).cfg = s.cfg := rfl
@[simp] theorem State.advance_draws (s : State) : (s.advance).draws = s.draws := rfl

/-! ### transferTo -/

@[simp] theorem State.transferTo_gpr (s : State) (g : Word) : (s.transferTo g).gpr = s.gpr := rfl
@[simp] theorem State.transferTo_pc (s : State) (g : Word) : (s.transferTo g).pc = if s.cfg.delaySlots then s.nextPc else g := rfl
@[simp] theorem State.transferTo_hi (s : State) (g : Word) : (s.transferTo g).hi = s.hi := rfl
@[simp] theorem State.transferTo_lo (s : State) (g : Word) : (s.transferTo g).lo = s.lo := rfl
@[simp] theorem State.transferTo_fpr (s : State) (g : Word) : (s.transferTo g).fpr = s.fpr := rfl
@[simp] theorem State.transferTo_cp0 (s : State) (g : Word) : (s.transferTo g).cp0 = s.cp0 := rfl
@[simp] theorem State.transferTo_mem (s : State) (g : Word) : (s.transferTo g).mem = s.mem := rfl
@[simp] theorem State.transferTo_status (s : State) (g : Word) : (s.transferTo g).status = s.status := rfl
@[simp] theorem State.transferTo_delay (s : State) (g : Word) : (s.transferTo g).delay = if s.cfg.delaySlots then some g else none := rfl
@[simp] theorem State.transferTo_cfg (s : State) (g : Word) : (s.transferTo g).cfg = s.cfg := rfl
@[simp] theorem State.transferTo_draws (s : State) (g : Word) : (s.transferTo g).draws = s.draws := rfl

/-! ### writeQuotient -/

@[simp] theorem State.writeQuotient_gpr (s : State) (q r : Word) : (s.writeQuotient q r).gpr = s.gpr := rfl
@[simp] theorem State.writeQuotient_pc (s : State) (q r : Word) : (s.writeQuotient q r).pc = s.pc := rfl
@[simp] theorem State.writeQuotient_hi (s : State) (q r : Word) : (s.writeQuotient q r).hi = r := rfl
@[simp] theorem State.writeQuotient_lo (s : State) (q r : Word) : (s.writeQuotient q r).lo = q := rfl
@[simp] theorem State.writeQuotient_fpr (s : State) (q r : Word) : (s.writeQuotient q r).fpr = s.fpr := rfl
@[simp] theorem State.writeQuotient_cp0 (s : State) (q r : Word) : (s.writeQuotient q r).cp0 = s.cp0 := rfl
@[simp] theorem State.writeQuotient_mem (s : State) (q r : Word) : (s.writeQuotient q r).mem = s.mem := rfl
@[simp] theorem State.writeQuotient_status (s : State) (q r : Word) : (s.writeQuotient q r).status = s.status := rfl
@[simp] theorem State.writeQuotient_delay (s : State) (q r : Word) : (s.writeQuotient q r).delay = s.delay := rfl
@[simp] theorem State.writeQuotient_cfg (s : State) (q r : Word) : (s.writeQuotient q r).cfg = s.cfg := rfl
@[simp] theorem State.writeQuotient_draws (s : State) (q r : Word) : (s.writeQuotient q r).draws = s.draws := rfl

/-! ### writeProduct -/

@[simp] theorem State.writeProduct_gpr (s : State) (p : BitVec 64) : (s.writeProduct p).gpr = s.gpr := rfl
@[simp] theorem State.writeProduct_pc (s : State) (p : BitVec 64) : (s.writeProduct p).pc = s.pc := rfl
@[simp] theorem State.writeProduct_hi (s : State) (p : BitVec 64) : (s.writeProduct p).hi = p.extractLsb' 32 32 := rfl
@[simp] theorem State.writeProduct_lo (s : State) (p : BitVec 64) : (s.writeProduct p).lo = p.extractLsb' 0 32 := rfl
@[simp] theorem State.writeProduct_fpr (s : State) (p : BitVec 64) : (s.writeProduct p).fpr = s.fpr := rfl
@[simp] theorem State.writeProduct_cp0 (s : State) (p : BitVec 64) : (s.writeProduct p).cp0 = s.cp0 := rfl
@[simp] theorem State.writeProduct_mem (s : State) (p : BitVec 64) : (s.writeProduct p).mem = s.mem := rfl
@[simp] theorem State.writeProduct_status (s : State) (p : BitVec 64) : (s.writeProduct p).status = s.status := rfl
@[simp] theorem State.writeProduct_delay (s : State) (p : BitVec 64) : (s.writeProduct p).delay = s.delay := rfl
@[simp] theorem State.writeProduct_cfg (s : State) (p : BitVec 64) : (s.writeProduct p).cfg = s.cfg := rfl
@[simp] theorem State.writeProduct_draws (s : State) (p : BitVec 64) : (s.writeProduct p).draws = s.draws := rfl

/-! ### drawQuotient -/

@[simp] theorem State.drawQuotient_gpr (s : State) : (s.drawQuotient).gpr = s.gpr := rfl
@[simp] theorem State.drawQuotient_pc (s : State) : (s.drawQuotient).pc = s.pc := rfl
@[simp] theorem State.drawQuotient_hi (s : State) : (s.drawQuotient).hi = Config.any32 (s.draws + 1) := rfl
@[simp] theorem State.drawQuotient_lo (s : State) : (s.drawQuotient).lo = Config.any32 s.draws := rfl
@[simp] theorem State.drawQuotient_fpr (s : State) : (s.drawQuotient).fpr = s.fpr := rfl
@[simp] theorem State.drawQuotient_cp0 (s : State) : (s.drawQuotient).cp0 = s.cp0 := rfl
@[simp] theorem State.drawQuotient_mem (s : State) : (s.drawQuotient).mem = s.mem := rfl
@[simp] theorem State.drawQuotient_status (s : State) : (s.drawQuotient).status = s.status := rfl
@[simp] theorem State.drawQuotient_delay (s : State) : (s.drawQuotient).delay = s.delay := rfl
@[simp] theorem State.drawQuotient_cfg (s : State) : (s.drawQuotient).cfg = s.cfg := rfl
@[simp] theorem State.drawQuotient_draws (s : State) : (s.drawQuotient).draws = s.draws + 2 := rfl

/-! ### faulted -/

@[simp] theorem State.faulted_gpr (s : State) (e : Exception) : (s.faulted e).gpr = s.gpr := rfl
@[simp] theorem State.faulted_pc (s : State) (e : Exception) : (s.faulted e).pc = s.pc := rfl
@[simp] theorem State.faulted_hi (s : State) (e : Exception) : (s.faulted e).hi = s.hi := rfl
@[simp] theorem State.faulted_lo (s : State) (e : Exception) : (s.faulted e).lo = s.lo := rfl
@[simp] theorem State.faulted_fpr (s : State) (e : Exception) : (s.faulted e).fpr = s.fpr := rfl
@[simp] theorem State.faulted_cp0 (s : State) (e : Exception) : (s.faulted e).cp0 = s.cp0 := rfl
@[simp] theorem State.faulted_mem (s : State) (e : Exception) : (s.faulted e).mem = s.mem := rfl
@[simp] theorem State.faulted_status (s : State) (e : Exception) : (s.faulted e).status = .fault e s.pc := rfl
@[simp] theorem State.faulted_delay (s : State) (e : Exception) : (s.faulted e).delay = s.delay := rfl
@[simp] theorem State.faulted_cfg (s : State) (e : Exception) : (s.faulted e).cfg = s.cfg := rfl
@[simp] theorem State.faulted_draws (s : State) (e : Exception) : (s.faulted e).draws = s.draws := rfl

/-! ### memWrite8 -/

@[simp] theorem State.memWrite8_gpr (s : State) (a : Word) (v : Byte) : (s.memWrite8 a v).gpr = s.gpr := by
  unfold State.memWrite8; rfl
@[simp] theorem State.memWrite8_pc (s : State) (a : Word) (v : Byte) : (s.memWrite8 a v).pc = s.pc := by
  unfold State.memWrite8; rfl
@[simp] theorem State.memWrite8_hi (s : State) (a : Word) (v : Byte) : (s.memWrite8 a v).hi = s.hi := by
  unfold State.memWrite8; rfl
@[simp] theorem State.memWrite8_lo (s : State) (a : Word) (v : Byte) : (s.memWrite8 a v).lo = s.lo := by
  unfold State.memWrite8; rfl
@[simp] theorem State.memWrite8_fpr (s : State) (a : Word) (v : Byte) : (s.memWrite8 a v).fpr = s.fpr := by
  unfold State.memWrite8; rfl
@[simp] theorem State.memWrite8_cp0 (s : State) (a : Word) (v : Byte) : (s.memWrite8 a v).cp0 = s.cp0 := by
  unfold State.memWrite8; rfl
@[simp] theorem State.memWrite8_status (s : State) (a : Word) (v : Byte) : (s.memWrite8 a v).status = s.status := by
  unfold State.memWrite8; rfl
@[simp] theorem State.memWrite8_delay (s : State) (a : Word) (v : Byte) : (s.memWrite8 a v).delay = s.delay := by
  unfold State.memWrite8; rfl
@[simp] theorem State.memWrite8_cfg (s : State) (a : Word) (v : Byte) : (s.memWrite8 a v).cfg = s.cfg := by
  unfold State.memWrite8; rfl
@[simp] theorem State.memWrite8_draws (s : State) (a : Word) (v : Byte) : (s.memWrite8 a v).draws = s.draws := by
  unfold State.memWrite8; rfl

/-! ### memWrite16 -/

@[simp] theorem State.memWrite16_gpr (s : State) (a : Word) (v : Half) : (s.memWrite16 a v).gpr = s.gpr := by
  unfold State.memWrite16; split <;> rfl
@[simp] theorem State.memWrite16_pc (s : State) (a : Word) (v : Half) : (s.memWrite16 a v).pc = s.pc := by
  unfold State.memWrite16; split <;> rfl
@[simp] theorem State.memWrite16_hi (s : State) (a : Word) (v : Half) : (s.memWrite16 a v).hi = s.hi := by
  unfold State.memWrite16; split <;> rfl
@[simp] theorem State.memWrite16_lo (s : State) (a : Word) (v : Half) : (s.memWrite16 a v).lo = s.lo := by
  unfold State.memWrite16; split <;> rfl
@[simp] theorem State.memWrite16_fpr (s : State) (a : Word) (v : Half) : (s.memWrite16 a v).fpr = s.fpr := by
  unfold State.memWrite16; split <;> rfl
@[simp] theorem State.memWrite16_cp0 (s : State) (a : Word) (v : Half) : (s.memWrite16 a v).cp0 = s.cp0 := by
  unfold State.memWrite16; split <;> rfl
@[simp] theorem State.memWrite16_status (s : State) (a : Word) (v : Half) : (s.memWrite16 a v).status = s.status := by
  unfold State.memWrite16; split <;> rfl
@[simp] theorem State.memWrite16_delay (s : State) (a : Word) (v : Half) : (s.memWrite16 a v).delay = s.delay := by
  unfold State.memWrite16; split <;> rfl
@[simp] theorem State.memWrite16_cfg (s : State) (a : Word) (v : Half) : (s.memWrite16 a v).cfg = s.cfg := by
  unfold State.memWrite16; split <;> rfl
@[simp] theorem State.memWrite16_draws (s : State) (a : Word) (v : Half) : (s.memWrite16 a v).draws = s.draws := by
  unfold State.memWrite16; split <;> rfl

/-! ### memWrite32 -/

@[simp] theorem State.memWrite32_gpr (s : State) (a : Word) (v : Word) : (s.memWrite32 a v).gpr = s.gpr := by
  unfold State.memWrite32; split <;> rfl
@[simp] theorem State.memWrite32_pc (s : State) (a : Word) (v : Word) : (s.memWrite32 a v).pc = s.pc := by
  unfold State.memWrite32; split <;> rfl
@[simp] theorem State.memWrite32_hi (s : State) (a : Word) (v : Word) : (s.memWrite32 a v).hi = s.hi := by
  unfold State.memWrite32; split <;> rfl
@[simp] theorem State.memWrite32_lo (s : State) (a : Word) (v : Word) : (s.memWrite32 a v).lo = s.lo := by
  unfold State.memWrite32; split <;> rfl
@[simp] theorem State.memWrite32_fpr (s : State) (a : Word) (v : Word) : (s.memWrite32 a v).fpr = s.fpr := by
  unfold State.memWrite32; split <;> rfl
@[simp] theorem State.memWrite32_cp0 (s : State) (a : Word) (v : Word) : (s.memWrite32 a v).cp0 = s.cp0 := by
  unfold State.memWrite32; split <;> rfl
@[simp] theorem State.memWrite32_status (s : State) (a : Word) (v : Word) : (s.memWrite32 a v).status = s.status := by
  unfold State.memWrite32; split <;> rfl
@[simp] theorem State.memWrite32_delay (s : State) (a : Word) (v : Word) : (s.memWrite32 a v).delay = s.delay := by
  unfold State.memWrite32; split <;> rfl
@[simp] theorem State.memWrite32_cfg (s : State) (a : Word) (v : Word) : (s.memWrite32 a v).cfg = s.cfg := by
  unfold State.memWrite32; split <;> rfl
@[simp] theorem State.memWrite32_draws (s : State) (a : Word) (v : Word) : (s.memWrite32 a v).draws = s.draws := by
  unfold State.memWrite32; split <;> rfl

/-! ### ofLaunch -/

@[simp] theorem State.ofLaunch_pc (l : Launch) : (State.ofLaunch l).pc = l.resetPc := rfl
@[simp] theorem State.ofLaunch_hi (l : Launch) : (State.ofLaunch l).hi = l.hi := rfl
@[simp] theorem State.ofLaunch_lo (l : Launch) : (State.ofLaunch l).lo = l.lo := rfl
@[simp] theorem State.ofLaunch_fpr (l : Launch) : (State.ofLaunch l).fpr = l.fpr := rfl
@[simp] theorem State.ofLaunch_cp0 (l : Launch) : (State.ofLaunch l).cp0 = l.cp0Init := rfl
@[simp] theorem State.ofLaunch_mem (l : Launch) : (State.ofLaunch l).mem = l.mem := rfl
@[simp] theorem State.ofLaunch_status (l : Launch) : (State.ofLaunch l).status = .running := rfl
@[simp] theorem State.ofLaunch_delay (l : Launch) : (State.ofLaunch l).delay = none := rfl
@[simp] theorem State.ofLaunch_cfg (l : Launch) : (State.ofLaunch l).cfg = l.cfg := rfl
@[simp] theorem State.ofLaunch_draws (l : Launch) : (State.ofLaunch l).draws = 0 := rfl

/-- Equal states have equal fields and conversely. -/
theorem State.ext_fields {s t : State} (gpr : s.gpr = t.gpr) (pc : s.pc = t.pc) (hi : s.hi = t.hi)
    (lo : s.lo = t.lo) (fpr : s.fpr = t.fpr) (cp0 : s.cp0 = t.cp0) (mem : s.mem = t.mem)
    (status : s.status = t.status) (delay : s.delay = t.delay) (cfg : s.cfg = t.cfg)
    (draws : s.draws = t.draws) : s = t := by
  cases s; cases t; simp_all

end Sys2Proof.Machine
end

