-- ==== Sys2Proof/Laws/Memory.lean ====
section
/-! SUPPORT. Memory as canonical data: read after write, frame, and that every memory operation keeps
the canonical form. -/

namespace Sys2Proof.Machine

/-- A write leaves every other byte alone, in any list of cells. -/
theorem Memory.read_write_other (m : Memory) {a b : Nat} (v : Byte) (h : b ≠ a) :
    Memory.read (Memory.write m a v) b = Memory.read m b := by
  induction m with
  | nil => by_cases hv : v = unlistedByte <;> simp [Memory.write, Memory.read, hv, Ne.symm h]
  | cons c m ih =>
    obtain ⟨k, w⟩ := c
    unfold Memory.write
    split
    · split <;> simp [Memory.read, Ne.symm h]
    · split
      · rename_i hk
        split <;> simp [Memory.read, Ne.symm h, ← hk]
      · simp [Memory.read, ih]

/-- Below the first address of a canonical memory, every byte is the unlisted one. -/
theorem Memory.read_of_wfFrom {lo a : Nat} {m : Memory} (h : Memory.wfFrom lo m = true) (ha : a < lo) :
    Memory.read m a = unlistedByte := by
  induction m generalizing lo with
  | nil => rfl
  | cons c m ih =>
    obtain ⟨k, w⟩ := c
    simp only [Memory.wfFrom, Bool.and_eq_true, decide_eq_true_eq] at h
    have hk : k ≠ a := by omega
    simp [Memory.read, hk, ih h.2 (by omega : a < k + 1)]

/-- A write to a canonical memory is read back. -/
theorem Memory.read_write_same_from {lo : Nat} {m : Memory} (a : Nat) (v : Byte)
    (h : Memory.wfFrom lo m = true) : Memory.read (Memory.write m a v) a = v := by
  induction m generalizing lo with
  | nil => by_cases hv : v = unlistedByte <;> simp [Memory.write, Memory.read, hv]
  | cons c m ih =>
    obtain ⟨k, w⟩ := c
    have hw := h
    simp only [Memory.wfFrom, Bool.and_eq_true, decide_eq_true_eq] at h
    by_cases h1 : a < k
    · by_cases hv : v = unlistedByte
      · have hne : k ≠ a := by omega
        simp [Memory.write, Memory.read, h1, hv, hne,
          Memory.read_of_wfFrom h.2 (by omega : a < k + 1)]
      · simp [Memory.write, Memory.read, h1, hv]
    · by_cases h2 : a = k
      · subst h2
        by_cases hv : v = unlistedByte
        · simp [Memory.write, hv, Memory.read_of_wfFrom h.2 (Nat.lt_succ_self a)]
        · simp [Memory.write, Memory.read, hv]
      · simp [Memory.write, Memory.read, h1, h2, Ne.symm h2, ih h.2]

/-- A write to a canonical memory is read back. -/
theorem Memory.read_write_same {m : Memory} (a : Nat) (v : Byte) (h : Memory.wf m = true) :
    Memory.read (Memory.write m a v) a = v :=
  Memory.read_write_same_from a v h

/-- A canonical form above a bound is one above a lower bound. -/
theorem Memory.wfFrom_mono {lo lo' : Nat} {m : Memory} (hl : lo' ≤ lo)
    (h : Memory.wfFrom lo m = true) : Memory.wfFrom lo' m = true := by
  cases m with
  | nil => rfl
  | cons c m =>
    obtain ⟨k, w⟩ := c
    simp only [Memory.wfFrom, Bool.and_eq_true, decide_eq_true_eq] at h ⊢
    exact ⟨⟨by omega, h.1.2⟩, h.2⟩

/-- A write inside the address space keeps the canonical form above a bound it respects. -/
theorem Memory.write_wfFrom {lo a : Nat} {m : Memory} (v : Byte) (hlo : lo ≤ a) (ha : a < 2 ^ 32)
    (h : Memory.wfFrom lo m = true) : Memory.wfFrom lo (Memory.write m a v) = true := by
  induction m generalizing lo with
  | nil =>
    by_cases hv : v = unlistedByte
    · simp [Memory.write, hv, Memory.wfFrom]
    · simpa [Memory.write, hv, Memory.wfFrom] using ⟨hlo, by omega⟩
  | cons c m ih =>
    obtain ⟨k, w⟩ := c
    have hw := h
    simp only [Memory.wfFrom, Bool.and_eq_true, decide_eq_true_eq] at h
    unfold Memory.write
    by_cases h1 : a < k
    · by_cases hv : v = unlistedByte
      · simpa [h1, hv] using hw
      · simp only [h1, hv, if_true, if_false, Memory.wfFrom, Bool.and_eq_true, decide_eq_true_eq]
        exact ⟨⟨hlo, ha, hv⟩, ⟨by omega, h.1.2⟩, h.2⟩
    · by_cases h2 : a = k
      · subst h2
        by_cases hv : v = unlistedByte
        · simpa [hv] using Memory.wfFrom_mono (by omega) h.2
        · simp only [h1, hv, if_true, if_false, Memory.wfFrom, Bool.and_eq_true, decide_eq_true_eq]
          exact ⟨⟨hlo, ha, hv⟩, h.2⟩
      · simp only [h1, h2, if_false, Memory.wfFrom, Bool.and_eq_true, decide_eq_true_eq]
        exact ⟨h.1, ih (by omega) h.2⟩

/-- Every byte write keeps memory canonical. -/
theorem State.setByte_wf {s : State} (a : Word) (v : Byte) (h : Memory.wf s.mem = true) :
    Memory.wf (s.setByte a v).mem = true :=
  Memory.write_wfFrom v (Nat.zero_le _) a.isLt h

/-- `MemWrite(a, 1, v)` keeps memory canonical. -/
theorem State.memWrite8_wf {s : State} (a : Word) (v : Byte) (h : Memory.wf s.mem = true) :
    Memory.wf (s.memWrite8 a v).mem = true :=
  State.setByte_wf a v h

/-- `MemWrite(a, 2, v)` keeps memory canonical. -/
theorem State.memWrite16_wf {s : State} (a : Word) (v : Half) (h : Memory.wf s.mem = true) :
    Memory.wf (s.memWrite16 a v).mem = true := by
  unfold State.memWrite16
  split <;> exact State.setByte_wf _ _ (State.setByte_wf _ _ h)

/-- `MemWrite(a, 4, v)` keeps memory canonical. -/
theorem State.memWrite32_wf {s : State} (a : Word) (v : Word) (h : Memory.wf s.mem = true) :
    Memory.wf (s.memWrite32 a v).mem = true := by
  unfold State.memWrite32
  split <;>
    exact State.setByte_wf _ _ (State.setByte_wf _ _ (State.setByte_wf _ _ (State.setByte_wf _ _ h)))

/-! ### One byte through the machine's reads -/

/-- Setting one byte leaves every other byte alone. -/
theorem State.byteAt_setByte_other (s : State) {a b : Word} (v : Byte) (h : b ≠ a) :
    (s.setByte a v).byteAt b = s.byteAt b :=
  Memory.read_write_other _ v fun hn => h (BitVec.eq_of_toNat_eq hn)

/-- The byte set is read back. -/
theorem State.byteAt_setByte_same {s : State} (a : Word) (v : Byte) (h : Memory.wf s.mem = true) :
    (s.setByte a v).byteAt a = v :=
  Memory.read_write_same _ v h

/-- A byte after setting one byte. -/
theorem State.byteAt_setByte {s : State} (a b : Word) (v : Byte) (h : Memory.wf s.mem = true) :
    (s.setByte a v).byteAt b = if b = a then v else s.byteAt b := by
  by_cases hb : b = a
  · subst hb; simp [State.byteAt_setByte_same b v h]
  · simp [hb, State.byteAt_setByte_other s v hb]

/-- The machine's reads of memory see only `mem`. -/
theorem State.byteAt_congr {s t : State} (h : t.mem = s.mem) (a : Word) : t.byteAt a = s.byteAt a := by
  simp [State.byteAt, h]

/-- The addresses of an access, one by one. -/
theorem Width.span_byte (a : Word) : Width.byte.span a = [a] := by
  simp [Width.span, Width.bytes, List.range_succ]

/-- The addresses of a halfword access. -/
theorem Width.span_half (a : Word) : Width.half.span a = [a, a + 1#32] := by
  simp [Width.span, Width.bytes, List.range_succ]

/-- The addresses of a word access. -/
theorem Width.span_word (a : Word) :
    Width.word.span a = [a, a + 1#32, a + 2#32, a + 3#32] := by
  simp [Width.span, Width.bytes, List.range_succ]

/-- `MemWrite(a, 1, v)` sets "no other byte" (spec/20_memory.md R57). -/
theorem State.memWrite8_sameMemory (s : State) (a : Word) (v : Byte) :
    SameMemory (Width.byte.span a) s (s.memWrite8 a v) := by
  intro b hb
  rw [Width.span_byte] at hb
  exact State.byteAt_setByte_other s v (by simpa using hb)

/-- `MemWrite(a, 2, v)` sets "no other byte" (R57). -/
theorem State.memWrite16_sameMemory (s : State) (a : Word) (v : Half) :
    SameMemory (Width.half.span a) s (s.memWrite16 a v) := by
  intro b hb
  rw [Width.span_half] at hb
  simp only [List.mem_cons, List.not_mem_nil, or_false, not_or] at hb
  unfold State.memWrite16
  split <;> rw [State.byteAt_setByte_other _ _ hb.2, State.byteAt_setByte_other _ _ hb.1]

/-- `MemWrite(a, 4, v)` sets "no other byte" (R57). -/
theorem State.memWrite32_sameMemory (s : State) (a : Word) (v : Word) :
    SameMemory (Width.word.span a) s (s.memWrite32 a v) := by
  intro b hb
  rw [Width.span_word] at hb
  simp only [List.mem_cons, List.not_mem_nil, or_false, not_or] at hb
  unfold State.memWrite32
  split <;>
    rw [State.byteAt_setByte_other _ _ hb.2.2.2, State.byteAt_setByte_other _ _ hb.2.2.1,
      State.byteAt_setByte_other _ _ hb.2.1, State.byteAt_setByte_other _ _ hb.1]

/-- The bytes after `MemWrite(a, 2, v)` (R57). -/
theorem State.memWrite16_bytes {s : State} (a : Word) (v : Half) (h : Memory.wf s.mem = true) :
    (s.memWrite16 a v).byteAt a =
      (if s.cfg.endian = .little then v.extractLsb' 0 8 else v.extractLsb' 8 8) ∧
    (s.memWrite16 a v).byteAt (a + 1#32) =
      (if s.cfg.endian = .little then v.extractLsb' 8 8 else v.extractLsb' 0 8) := by
  have h1 : a ≠ a + 1#32 := by bv_omega
  unfold State.memWrite16
  split <;> rename_i he <;>
    simp [State.byteAt_setByte, State.setByte_wf, h, h1, he]

/-- A byte after setting four bytes at distinct addresses. -/
theorem State.byteAt_setByte4 {s : State} (a0 a1 a2 a3 b : Word) (v0 v1 v2 v3 : Byte)
    (h : Memory.wf s.mem = true) :
    ((((s.setByte a0 v0).setByte a1 v1).setByte a2 v2).setByte a3 v3).byteAt b =
      if b = a3 then v3 else if b = a2 then v2 else if b = a1 then v1 else
        if b = a0 then v0 else s.byteAt b := by
  have h0 := State.setByte_wf a0 v0 h
  have h1 := State.setByte_wf a1 v1 h0
  have h2 := State.setByte_wf a2 v2 h1
  rw [State.byteAt_setByte _ _ _ h2, State.byteAt_setByte _ _ _ h1, State.byteAt_setByte _ _ _ h0,
    State.byteAt_setByte _ _ _ h]

/-- The bytes after `MemWrite(a, 4, v)` (R57). -/
theorem State.memWrite32_bytes {s : State} (a : Word) (v : Word) (h : Memory.wf s.mem = true) :
    (s.memWrite32 a v).byteAt a =
      (if s.cfg.endian = .little then v.extractLsb' 0 8 else v.extractLsb' 24 8) ∧
    (s.memWrite32 a v).byteAt (a + 1#32) =
      (if s.cfg.endian = .little then v.extractLsb' 8 8 else v.extractLsb' 16 8) ∧
    (s.memWrite32 a v).byteAt (a + 2#32) =
      (if s.cfg.endian = .little then v.extractLsb' 16 8 else v.extractLsb' 8 8) ∧
    (s.memWrite32 a v).byteAt (a + 3#32) =
      (if s.cfg.endian = .little then v.extractLsb' 24 8 else v.extractLsb' 0 8) := by
  have h1 : a ≠ a + 1#32 := by bv_omega
  have h2 : a ≠ a + 2#32 := by bv_omega
  have h3 : a ≠ a + 3#32 := by bv_omega
  have h4 : a + 1#32 ≠ a + 2#32 := by bv_omega
  have h5 : a + 1#32 ≠ a + 3#32 := by bv_omega
  have h6 : a + 2#32 ≠ a + 3#32 := by bv_omega
  unfold State.memWrite32
  split <;> rename_i he <;>
    simp [State.byteAt_setByte4, h, h1, h2, h3, h4, h5, h6, he]

/-- `MemRead(a, 2)` after `MemWrite(a, 2, v)` (R56, R57, R64). -/
theorem State.memRead16_memWrite16 {s : State} (a : Word) (v : Half) (h : Memory.wf s.mem = true) :
    (s.memWrite16 a v).memRead16 a = v := by
  obtain ⟨h0, h1⟩ := State.memWrite16_bytes a v h
  rw [State.memRead16, h0, h1, State.memWrite16_cfg]
  apply BitVec.eq_of_getLsbD_eq
  intro k hk
  cases s.cfg.endian <;>
    simp only [reduceCtorEq, if_true, if_false, BitVec.getLsbD_append, BitVec.getLsbD_extractLsb'] <;>
    grind

/-- `MemRead(a, 4)` after `MemWrite(a, 4, v)` (R56, R57, R64). -/
theorem State.memRead32_memWrite32 {s : State} (a : Word) (v : Word) (h : Memory.wf s.mem = true) :
    (s.memWrite32 a v).memRead32 a = v := by
  obtain ⟨h0, h1, h2, h3⟩ := State.memWrite32_bytes a v h
  rw [State.memRead32, h0, h1, h2, h3, State.memWrite32_cfg]
  apply BitVec.eq_of_getLsbD_eq
  intro k hk
  cases s.cfg.endian <;>
    simp only [reduceCtorEq, if_true, if_false, wordOfBytes, BitVec.getLsbD_append,
      BitVec.getLsbD_extractLsb'] <;>
    grind

end Sys2Proof.Machine
end

