-- ==== Sys2Proof/Laws/Registers.lean ====
section
/-! SUPPORT. The registers through their accessors: read after write, the hard-wired `$0`, and which
updates a read does not see. -/

namespace Sys2Proof.Machine

/-- `x[0]` reads 0 (spec/10_state.md R21). -/
@[simp] theorem State.readGpr_zero (s : State) : s.readGpr 0#5 = 0#32 := by
  simp [State.readGpr]

/-- A general register after a write (R21). -/
theorem State.readGpr_writeGpr (s : State) (i j : Reg) (v : Word) :
    (s.writeGpr i v).readGpr j =
      if j = 0#5 then 0#32 else if j = i then v else s.readGpr j := by
  unfold State.readGpr
  by_cases hj : j = 0#5
  · simp [hj]
  · by_cases hi : i = 0#5
    · have hji : j ≠ i := fun h => hj (h.trans hi)
      simp only [hj, if_false, State.writeGpr, hi, if_true]
    · by_cases h : j = i
      · subst h
        simp [hj, State.writeGpr]
      · have hn : i.toNat ≠ j.toNat := fun e => h (BitVec.eq_of_toNat_eq e.symm)
        simp [hj, hi, h, State.writeGpr, Vector.getElem_set_ne _ _ hn]

/-- "`x[0] <- v` changes nothing" (R21). -/
theorem State.writeGpr_zero (s : State) (v : Word) : s.writeGpr 0#5 v = s := rfl

/-- A floating-point register after a write (spec/10_state.md R28). -/
theorem State.readFpr_writeFpr (s : State) (i j : FReg) (v : Word) :
    (s.writeFpr i v).readFpr j = if j = i then v else s.readFpr j := by
  unfold State.readFpr State.writeFpr
  by_cases h : j = i
  · subst h; simp
  · have hn : i.toNat ≠ j.toNat := fun e => h (BitVec.eq_of_toNat_eq e.symm)
    simp [h, Vector.getElem_set_ne _ _ hn]

/-- Reads of general registers see only the register file. -/
theorem State.readGpr_congr {s t : State} (h : t.gpr = s.gpr) (r : Reg) :
    t.readGpr r = s.readGpr r := by
  simp [State.readGpr, h]

/-- Reads of floating-point registers see only their file. -/
theorem State.readFpr_congr {s t : State} (h : t.fpr = s.fpr) (f : FReg) :
    t.readFpr f = s.readFpr f := by
  simp [State.readFpr, h]

/-- Reads of coprocessor 0 see only its file. -/
theorem State.readCp0_congr {s t : State} (h : t.cp0 = s.cp0) (c : CReg) :
    t.readCp0 c = s.readCp0 c := by
  simp [State.readCp0, h]

/-- The storage of `$0` is never written. -/
theorem State.writeGpr_zeroSlot (s : State) (i : Reg) (v : Word) :
    (s.writeGpr i v).gpr[0] = s.gpr[0] := by
  by_cases hi : i = 0#5
  · subst hi; rfl
  · have hn : i.toNat ≠ 0 := fun e => hi (BitVec.eq_of_toNat_eq e)
    simp [State.writeGpr, hi, Vector.getElem_set_ne _ _ hn]

@[simp] theorem State.writeGpr_readFpr (s : State) (i : Reg) (v : Word) (f : FReg) : (s.writeGpr i v).readFpr f = s.readFpr f := rfl
@[simp] theorem State.writeGpr_readCp0 (s : State) (i : Reg) (v : Word) (c : CReg) : (s.writeGpr i v).readCp0 c = s.readCp0 c := rfl
@[simp] theorem State.writeGpr_byteAt (s : State) (i : Reg) (v : Word) (b : Word) : (s.writeGpr i v).byteAt b = s.byteAt b := rfl
@[simp] theorem State.writeFpr_readGpr (s : State) (i : FReg) (v : Word) (r : Reg) : (s.writeFpr i v).readGpr r = s.readGpr r := rfl
@[simp] theorem State.writeFpr_readCp0 (s : State) (i : FReg) (v : Word) (c : CReg) : (s.writeFpr i v).readCp0 c = s.readCp0 c := rfl
@[simp] theorem State.writeFpr_byteAt (s : State) (i : FReg) (v : Word) (b : Word) : (s.writeFpr i v).byteAt b = s.byteAt b := rfl
@[simp] theorem State.writeHi_readGpr (s : State) (v : Word) (r : Reg) : (s.writeHi v).readGpr r = s.readGpr r := rfl
@[simp] theorem State.writeHi_readFpr (s : State) (v : Word) (f : FReg) : (s.writeHi v).readFpr f = s.readFpr f := rfl
@[simp] theorem State.writeHi_readCp0 (s : State) (v : Word) (c : CReg) : (s.writeHi v).readCp0 c = s.readCp0 c := rfl
@[simp] theorem State.writeHi_byteAt (s : State) (v : Word) (b : Word) : (s.writeHi v).byteAt b = s.byteAt b := rfl
@[simp] theorem State.writeLo_readGpr (s : State) (v : Word) (r : Reg) : (s.writeLo v).readGpr r = s.readGpr r := rfl
@[simp] theorem State.writeLo_readFpr (s : State) (v : Word) (f : FReg) : (s.writeLo v).readFpr f = s.readFpr f := rfl
@[simp] theorem State.writeLo_readCp0 (s : State) (v : Word) (c : CReg) : (s.writeLo v).readCp0 c = s.readCp0 c := rfl
@[simp] theorem State.writeLo_byteAt (s : State) (v : Word) (b : Word) : (s.writeLo v).byteAt b = s.byteAt b := rfl
@[simp] theorem State.setByte_readGpr (s : State) (a : Word) (v : Byte) (r : Reg) : (s.setByte a v).readGpr r = s.readGpr r := rfl
@[simp] theorem State.setByte_readFpr (s : State) (a : Word) (v : Byte) (f : FReg) : (s.setByte a v).readFpr f = s.readFpr f := rfl
@[simp] theorem State.setByte_readCp0 (s : State) (a : Word) (v : Byte) (c : CReg) : (s.setByte a v).readCp0 c = s.readCp0 c := rfl
@[simp] theorem State.advance_readGpr (s : State) (r : Reg) : (s.advance).readGpr r = s.readGpr r := rfl
@[simp] theorem State.advance_readFpr (s : State) (f : FReg) : (s.advance).readFpr f = s.readFpr f := rfl
@[simp] theorem State.advance_readCp0 (s : State) (c : CReg) : (s.advance).readCp0 c = s.readCp0 c := rfl
@[simp] theorem State.advance_byteAt (s : State) (b : Word) : (s.advance).byteAt b = s.byteAt b := rfl
@[simp] theorem State.transferTo_readGpr (s : State) (g : Word) (r : Reg) : (s.transferTo g).readGpr r = s.readGpr r := rfl
@[simp] theorem State.transferTo_readFpr (s : State) (g : Word) (f : FReg) : (s.transferTo g).readFpr f = s.readFpr f := rfl
@[simp] theorem State.transferTo_readCp0 (s : State) (g : Word) (c : CReg) : (s.transferTo g).readCp0 c = s.readCp0 c := rfl
@[simp] theorem State.transferTo_byteAt (s : State) (g : Word) (b : Word) : (s.transferTo g).byteAt b = s.byteAt b := rfl
@[simp] theorem State.writeQuotient_readGpr (s : State) (q m : Word) (r : Reg) : (s.writeQuotient q m).readGpr r = s.readGpr r := rfl
@[simp] theorem State.writeQuotient_readFpr (s : State) (q m : Word) (f : FReg) : (s.writeQuotient q m).readFpr f = s.readFpr f := rfl
@[simp] theorem State.writeQuotient_readCp0 (s : State) (q m : Word) (c : CReg) : (s.writeQuotient q m).readCp0 c = s.readCp0 c := rfl
@[simp] theorem State.writeQuotient_byteAt (s : State) (q m : Word) (b : Word) : (s.writeQuotient q m).byteAt b = s.byteAt b := rfl
@[simp] theorem State.writeProduct_readGpr (s : State) (p : BitVec 64) (r : Reg) : (s.writeProduct p).readGpr r = s.readGpr r := rfl
@[simp] theorem State.writeProduct_readFpr (s : State) (p : BitVec 64) (f : FReg) : (s.writeProduct p).readFpr f = s.readFpr f := rfl
@[simp] theorem State.writeProduct_readCp0 (s : State) (p : BitVec 64) (c : CReg) : (s.writeProduct p).readCp0 c = s.readCp0 c := rfl
@[simp] theorem State.writeProduct_byteAt (s : State) (p : BitVec 64) (b : Word) : (s.writeProduct p).byteAt b = s.byteAt b := rfl
@[simp] theorem State.drawQuotient_readGpr (s : State) (r : Reg) : (s.drawQuotient).readGpr r = s.readGpr r := rfl
@[simp] theorem State.drawQuotient_readFpr (s : State) (f : FReg) : (s.drawQuotient).readFpr f = s.readFpr f := rfl
@[simp] theorem State.drawQuotient_readCp0 (s : State) (c : CReg) : (s.drawQuotient).readCp0 c = s.readCp0 c := rfl
@[simp] theorem State.drawQuotient_byteAt (s : State) (b : Word) : (s.drawQuotient).byteAt b = s.byteAt b := rfl
@[simp] theorem State.faulted_readGpr (s : State) (e : Exception) (r : Reg) : (s.faulted e).readGpr r = s.readGpr r := rfl
@[simp] theorem State.faulted_readFpr (s : State) (e : Exception) (f : FReg) : (s.faulted e).readFpr f = s.readFpr f := rfl
@[simp] theorem State.faulted_readCp0 (s : State) (e : Exception) (c : CReg) : (s.faulted e).readCp0 c = s.readCp0 c := rfl
@[simp] theorem State.faulted_byteAt (s : State) (e : Exception) (b : Word) : (s.faulted e).byteAt b = s.byteAt b := rfl
@[simp] theorem State.memWrite8_readGpr (s : State) (a : Word) (v : Byte) (r : Reg) : (s.memWrite8 a v).readGpr r = s.readGpr r :=
  State.readGpr_congr (by simp) r
@[simp] theorem State.memWrite8_readFpr (s : State) (a : Word) (v : Byte) (f : FReg) : (s.memWrite8 a v).readFpr f = s.readFpr f :=
  State.readFpr_congr (by simp) f
@[simp] theorem State.memWrite8_readCp0 (s : State) (a : Word) (v : Byte) (c : CReg) : (s.memWrite8 a v).readCp0 c = s.readCp0 c :=
  State.readCp0_congr (by simp) c
@[simp] theorem State.memWrite16_readGpr (s : State) (a : Word) (v : Half) (r : Reg) : (s.memWrite16 a v).readGpr r = s.readGpr r :=
  State.readGpr_congr (by simp) r
@[simp] theorem State.memWrite16_readFpr (s : State) (a : Word) (v : Half) (f : FReg) : (s.memWrite16 a v).readFpr f = s.readFpr f :=
  State.readFpr_congr (by simp) f
@[simp] theorem State.memWrite16_readCp0 (s : State) (a : Word) (v : Half) (c : CReg) : (s.memWrite16 a v).readCp0 c = s.readCp0 c :=
  State.readCp0_congr (by simp) c
@[simp] theorem State.memWrite32_readGpr (s : State) (a : Word) (v : Word) (r : Reg) : (s.memWrite32 a v).readGpr r = s.readGpr r :=
  State.readGpr_congr (by simp) r
@[simp] theorem State.memWrite32_readFpr (s : State) (a : Word) (v : Word) (f : FReg) : (s.memWrite32 a v).readFpr f = s.readFpr f :=
  State.readFpr_congr (by simp) f
@[simp] theorem State.memWrite32_readCp0 (s : State) (a : Word) (v : Word) (c : CReg) : (s.memWrite32 a v).readCp0 c = s.readCp0 c :=
  State.readCp0_congr (by simp) c

end Sys2Proof.Machine
end

