-- ==== Sys2Proof/Laws/Ops.lean ====
section
/-! SUPPORT. One lemma for each shared operation that says what it answers, and the effect lemmas that
result statements are assembled from. -/

namespace Sys2Proof.Machine

/-! ### Which accesses are checked how -/

/-- An access of the given width is aligned. -/
theorem Width.aligned_iff (w : Width) (a : Word) : w.aligned a = true ↔ a.toNat % w.bytes = 0 := by
  simp [Width.aligned]

/-- Some byte of the access is unmapped. -/
theorem State.spanUnmapped_eq_false (s : State) (w : Width) (a : Word) :
    s.spanUnmapped w a = false ↔ ∀ b ∈ w.span a, s.isMapped b = true := by
  simp [State.spanUnmapped]

/-- Some byte of the access lies in `text`. -/
theorem State.spanInText_eq_false (s : State) (w : Width) (a : Word) :
    s.spanInText w a = false ↔ ∀ b ∈ w.span a, s.inText b = false := by
  simp [State.spanInText]

/-- A load's checks pass exactly when it may be performed. -/
theorem State.checkLoad_eq_none (s : State) (w : Width) (a : Word) :
    s.checkLoad w a = none ↔ s.CanLoad w a := by
  unfold State.checkLoad State.CanLoad
  rw [← Width.aligned_iff, ← State.spanUnmapped_eq_false]
  cases w.aligned a <;> cases s.spanUnmapped w a <;> simp

/-- A misaligned load (spec/20_memory.md R59). -/
theorem State.checkLoad_misaligned (s : State) (w : Width) (a : Word) (h : a.toNat % w.bytes ≠ 0) :
    s.checkLoad w a = some (.addressError .load a) := by
  have ha : w.aligned a = false := by simp [Width.aligned, h]
  simp [State.checkLoad, ha]

/-- An aligned load of an unmapped byte (spec/20_memory.md R62). -/
theorem State.checkLoad_unmapped (s : State) (w : Width) (a : Word) (h : a.toNat % w.bytes = 0)
    (hm : ∃ b ∈ w.span a, s.isMapped b = false) : s.checkLoad w a = some (.busError .load a) := by
  have ha : w.aligned a = true := by simp [Width.aligned, h]
  have hu : s.spanUnmapped w a = true := by simpa [State.spanUnmapped] using hm
  simp [State.checkLoad, ha, hu]

/-- Every exception of a load's checks, with its cause. -/
theorem State.checkLoad_cases {s : State} {w : Width} {a : Word} {e : Exception}
    (h : s.checkLoad w a = some e) :
    (e = .addressError .load a ∧ a.toNat % w.bytes ≠ 0) ∨
    (e = .busError .load a ∧ a.toNat % w.bytes = 0 ∧ ∃ b ∈ w.span a, s.isMapped b = false) := by
  by_cases ha : a.toNat % w.bytes = 0
  · by_cases hm : ∃ b ∈ w.span a, s.isMapped b = false
    · rw [State.checkLoad_unmapped s w a ha hm] at h
      exact .inr ⟨(Option.some.inj h).symm, ha, hm⟩
    · have hn := (State.checkLoad_eq_none s w a).2
        ⟨ha, fun b hb => by
          by_contra hf
          exact hm ⟨b, hb, by simpa using hf⟩⟩
      simp [hn] at h
  · rw [State.checkLoad_misaligned s w a ha] at h
    exact .inl ⟨(Option.some.inj h).symm, ha⟩

/-- A store's checks pass exactly when it may be performed. -/
theorem State.checkStore_eq_none (s : State) (w : Width) (a : Word) :
    s.checkStore w a = none ↔ s.CanStore w a := by
  unfold State.checkStore State.CanStore
  rw [← Width.aligned_iff]
  have hs : (∀ b ∈ w.span a, s.isMapped b = true ∧ s.inText b = false) ↔
      s.spanUnmapped w a = false ∧ s.spanInText w a = false := by
    rw [State.spanUnmapped_eq_false, State.spanInText_eq_false]
    exact ⟨fun h => ⟨fun b hb => (h b hb).1, fun b hb => (h b hb).2⟩,
      fun h b hb => ⟨h.1 b hb, h.2 b hb⟩⟩
  rw [hs]
  cases w.aligned a <;> cases s.spanUnmapped w a <;> cases s.spanInText w a <;> simp

/-- A misaligned store (spec/20_memory.md R59). -/
theorem State.checkStore_misaligned (s : State) (w : Width) (a : Word) (h : a.toNat % w.bytes ≠ 0) :
    s.checkStore w a = some (.addressError .store a) := by
  have ha : w.aligned a = false := by simp [Width.aligned, h]
  simp [State.checkStore, ha]

/-- An aligned store to an unmapped byte or into `text` (spec/20_memory.md R62, R70). -/
theorem State.checkStore_refused (s : State) (w : Width) (a : Word) (h : a.toNat % w.bytes = 0)
    (hm : ∃ b ∈ w.span a, s.isMapped b = false ∨ s.inText b = true) :
    s.checkStore w a = some (.busError .store a) := by
  have ha : w.aligned a = true := by simp [Width.aligned, h]
  have hu : (s.spanUnmapped w a || s.spanInText w a) = true := by
    obtain ⟨b, hb, hc⟩ := hm
    simp only [Bool.or_eq_true, State.spanUnmapped, State.spanInText, List.any_eq_true]
    exact hc.imp (fun h => ⟨b, hb, by simp [h]⟩) fun h => ⟨b, hb, h⟩
  simp only [State.checkStore, ha, hu, Bool.not_true, Bool.false_eq_true, if_false, if_true]

/-- Every exception of a store's checks, with its cause. -/
theorem State.checkStore_cases {s : State} {w : Width} {a : Word} {e : Exception}
    (h : s.checkStore w a = some e) :
    (e = .addressError .store a ∧ a.toNat % w.bytes ≠ 0) ∨
    (e = .busError .store a ∧ a.toNat % w.bytes = 0 ∧
      ∃ b ∈ w.span a, s.isMapped b = false ∨ s.inText b = true) := by
  by_cases ha : a.toNat % w.bytes = 0
  · by_cases hm : ∃ b ∈ w.span a, s.isMapped b = false ∨ s.inText b = true
    · rw [State.checkStore_refused s w a ha hm] at h
      exact .inr ⟨(Option.some.inj h).symm, ha, hm⟩
    · have hn := (State.checkStore_eq_none s w a).2
        ⟨ha, fun b hb => by
          constructor
          · by_contra hf
            exact hm ⟨b, hb, .inl (by simpa using hf)⟩
          · by_contra hf
            exact hm ⟨b, hb, .inr (by simpa using hf)⟩⟩
      simp [hn] at h
  · rw [State.checkStore_misaligned s w a ha] at h
    exact .inl ⟨(Option.some.inj h).symm, ha⟩

/-- A fetch's checks pass exactly when the instruction may be fetched. -/
theorem State.checkFetch_eq_none (s : State) : s.checkFetch = none ↔ s.CanFetch := by
  unfold State.checkFetch State.CanFetch
  have ha : s.pc.toNat % 4 = 0 ↔ Width.word.aligned s.pc = true := (Width.aligned_iff .word s.pc).symm
  rw [ha, ← State.spanUnmapped_eq_false]
  cases Width.word.aligned s.pc <;> cases s.spanUnmapped .word s.pc <;> cases s.inText s.pc <;> simp

/-- A misaligned fetch (spec/20_memory.md R60). -/
theorem State.checkFetch_misaligned (s : State) (h : s.pc.toNat % 4 ≠ 0) :
    s.checkFetch = some (.addressError .fetch s.pc) := by
  have ha : Width.word.aligned s.pc = false := by simp [Width.aligned, Width.bytes, h]
  simp [State.checkFetch, ha]

/-- An aligned fetch of an unmapped byte or outside `text` (spec/20_memory.md R62, R70). -/
theorem State.checkFetch_refused (s : State) (h : s.pc.toNat % 4 = 0)
    (hm : (∃ b ∈ Width.word.span s.pc, s.isMapped b = false) ∨ s.inText s.pc = false) :
    s.checkFetch = some (.busError .fetch s.pc) := by
  have ha : Width.word.aligned s.pc = true := by simp [Width.aligned, Width.bytes, h]
  have hu : (s.spanUnmapped .word s.pc || !s.inText s.pc) = true := by
    rw [Bool.or_eq_true]
    exact hm.imp (fun hb => by simpa [State.spanUnmapped] using hb) fun ht => by simp [ht]
  simp only [State.checkFetch, ha, hu, Bool.not_true, Bool.false_eq_true, if_false, if_true]

/-! ### The shapes of instructions -/

/-- Taking an exception answers the faulted state. -/
theorem State.raise_eq (s : State) (e : Exception) : s.raise e = .next (s.faulted e) := rfl

/-- A checked instruction whose condition holds. -/
theorem State.checked_raises {s : State} {c : Bool} (e : Exception) (f : State → State)
    (h : c = true) : s.checked c e f = .next (s.faulted e) := by
  simp [State.checked, h, State.raise_eq]

/-- A checked instruction whose condition does not hold. -/
theorem State.checked_completes {s : State} {c : Bool} (e : Exception) (f : State → State)
    (h : c = false) : s.checked c e f = .next (f s).advance := by
  simp [State.checked, h, State.finish]

/-- A load that may be performed. -/
theorem State.load_completes {s : State} {w : Width} {a : Word} (f : State → State)
    (h : s.CanLoad w a) : s.load w a f = .next (f s).advance := by
  simp [State.load, (State.checkLoad_eq_none s w a).2 h, State.finish]

/-- A load that a check stops. -/
theorem State.load_raises {s : State} {w : Width} {a : Word} {e : Exception} (f : State → State)
    (h : s.checkLoad w a = some e) : s.load w a f = .next (s.faulted e) := by
  simp [State.load, h, State.raise_eq]

/-- A store that may be performed. -/
theorem State.store_completes {s : State} {w : Width} {a : Word} (f : State → State)
    (h : s.CanStore w a) : s.store w a f = .next (f s).advance := by
  simp [State.store, (State.checkStore_eq_none s w a).2 h, State.finish]

/-- A store that a check stops. -/
theorem State.store_raises {s : State} {w : Width} {a : Word} {e : Exception} (f : State → State)
    (h : s.checkStore w a = some e) : s.store w a f = .next (s.faulted e) := by
  simp [State.store, h, State.raise_eq]

/-- Outside a delay slot no target is pending. -/
theorem State.pendingTarget_eq_none {s : State} (h : ¬ s.InSlot) : s.pendingTarget = none := by
  unfold State.pendingTarget
  cases hd : s.cfg.delaySlots
  · rfl
  · by_contra hn
    exact h ⟨hd, by simpa using hn⟩

/-- In a delay slot a target is pending. -/
theorem State.pendingTarget_isSome {s : State} (h : s.InSlot) : s.pendingTarget.isSome = true := by
  simp [State.pendingTarget, h.1, Option.isSome_iff_ne_none, h.2]

/-- A control transfer outside a delay slot. -/
theorem State.control_completes {s : State} (ir : Word) (f : State → State) (h : ¬ s.InSlot) :
    s.control ir f = .next (f s) := by
  simp [State.control, State.pendingTarget_eq_none h]

/-- A control transfer in a delay slot (spec/45_itype_branch.md R202). -/
theorem State.control_raises {s : State} (ir : Word) (f : State → State) (h : s.InSlot) :
    s.control ir f = .next (s.faulted (.reservedInstruction ir)) := by
  simp [State.control, State.pendingTarget_isSome h, State.raise_eq]

/-! ### The program counter -/

/-- The next pc, case by case. -/
theorem State.nextPc_eq (s : State) :
    s.nextPc = if s.cfg.delaySlots = true then s.delay.getD (s.pc + 4#32) else s.pc + 4#32 := by
  unfold State.nextPc State.pendingTarget
  split <;> rfl

/-- Outside a delay slot the next pc is `pc + 4`. -/
theorem State.nextPc_of_not_inSlot {s : State} (h : ¬ s.InSlot) : s.nextPc = s.pc + 4#32 := by
  simp [State.nextPc, State.pendingTarget_eq_none h]

/-- After updates that leave pc, delay and parameters alone, `advance` moves on. -/
theorem movesOn_advance {s u : State} (hp : u.pc = s.pc) (hd : u.delay = s.delay) (hc : u.cfg = s.cfg) :
    MovesOn s u.advance := by
  refine ⟨rfl, ?_⟩
  rw [State.advance_pc, State.nextPc_eq, hp, hd, hc]

/-- After updates that leave pc, delay and parameters alone, `transferTo` jumps. -/
theorem jumpsTo_transferTo {s u : State} (g : Word) (h : ¬ s.InSlot) (hp : u.pc = s.pc)
    (hd : u.delay = s.delay) (hc : u.cfg = s.cfg) : JumpsTo g s (u.transferTo g) := by
  have hs : ¬ u.InSlot := fun hu => h ⟨hc ▸ hu.1, hd ▸ hu.2⟩
  have hn := State.nextPc_of_not_inSlot hs
  constructor <;> intro hslots <;> simp [hc, hslots, hn, hp]

/-! ### Effects -/

/-- Writing a general register and moving on. -/
theorem writesGpr_advance (s : State) (rd : Reg) (v : Word) :
    WritesGpr rd v s (s.writeGpr rd v).advance ∧ MovesOn s (s.writeGpr rd v).advance := by
  refine ⟨⟨?_, fun r hr => ?_, fun _ _ => rfl, ⟨rfl, rfl⟩, ⟨fun _ => rfl, rfl, rfl⟩, fun _ _ => rfl, rfl⟩,
    movesOn_advance rfl rfl rfl⟩
  · simp [State.readGpr_writeGpr]
  · have hne : r ≠ rd := by simpa using hr
    rw [State.advance_readGpr, State.readGpr_writeGpr, if_neg hne]
    by_cases h0 : r = 0#5 <;> simp [h0]

/-- Writing a link register and jumping. -/
theorem writesGpr_transferTo (s : State) (rd : Reg) (v g : Word) (h : ¬ s.InSlot) :
    WritesGpr rd v s ((s.writeGpr rd v).transferTo g) ∧
      JumpsTo g s ((s.writeGpr rd v).transferTo g) := by
  obtain ⟨⟨h1, h2, -⟩, -⟩ := writesGpr_advance s rd v
  exact ⟨⟨h1, h2, fun _ _ => rfl, ⟨rfl, rfl⟩, ⟨fun _ => rfl, rfl, rfl⟩, fun _ _ => rfl, rfl⟩,
    jumpsTo_transferTo g h rfl rfl rfl⟩

/-- Writing a floating-point register and moving on. -/
theorem writesFpr_advance (s : State) (fd : FReg) (v : Word) :
    WritesFpr fd v s (s.writeFpr fd v).advance ∧ MovesOn s (s.writeFpr fd v).advance := by
  refine ⟨⟨?_, fun _ _ => rfl, fun f hf => ?_, ⟨rfl, rfl⟩, ⟨fun _ => rfl, rfl, rfl⟩, fun _ _ => rfl, rfl⟩,
    movesOn_advance rfl rfl rfl⟩
  · simp [State.readFpr_writeFpr]
  · have hne : f ≠ fd := by simpa using hf
    simp [State.readFpr_writeFpr, hne]

/-- Updates of HI, LO and the counter of draws, then moving on. -/
theorem writesHiLo_advance (s : State) (hi lo : Word) (n : Nat) :
    WritesHiLo hi lo s ({ s with hi := hi, lo := lo, draws := n } : State).advance ∧
      MovesOn s ({ s with hi := hi, lo := lo, draws := n } : State).advance :=
  ⟨⟨rfl, rfl, fun _ _ => rfl, fun _ _ => rfl, ⟨fun _ => rfl, rfl, rfl⟩, fun _ _ => rfl⟩,
    movesOn_advance rfl rfl rfl⟩

/-- Moving on alone. -/
theorem writesNothing_advance (s : State) : WritesNothing s s.advance ∧ MovesOn s s.advance :=
  ⟨⟨fun _ _ => rfl, fun _ _ => rfl, ⟨rfl, rfl⟩, ⟨fun _ => rfl, rfl, rfl⟩, fun _ _ => rfl, rfl⟩,
    movesOn_advance rfl rfl rfl⟩

/-- Jumping alone. -/
theorem writesNothing_transferTo (s : State) (g : Word) (h : ¬ s.InSlot) :
    WritesNothing s (s.transferTo g) ∧ JumpsTo g s (s.transferTo g) :=
  ⟨⟨fun _ _ => rfl, fun _ _ => rfl, ⟨rfl, rfl⟩, ⟨fun _ => rfl, rfl, rfl⟩, fun _ _ => rfl, rfl⟩,
    jumpsTo_transferTo g h rfl rfl rfl⟩

/-- `MemWrite(a, 1, v)` and moving on. -/
theorem writesMemory8_advance (s : State) (a : Word) (v : Byte) :
    WritesMemory (Width.byte.span a) s (s.memWrite8 a v).advance ∧
      MovesOn s (s.memWrite8 a v).advance :=
  ⟨⟨fun _ _ => by simp, fun _ _ => by simp, ⟨by simp, by simp⟩, ⟨fun _ => by simp, by simp, by simp⟩,
    fun b hb => State.memWrite8_sameMemory s a v b hb, by simp⟩,
    movesOn_advance (by simp) (by simp) (by simp)⟩

/-- `MemWrite(a, 2, v)` and moving on. -/
theorem writesMemory16_advance (s : State) (a : Word) (v : Half) :
    WritesMemory (Width.half.span a) s (s.memWrite16 a v).advance ∧
      MovesOn s (s.memWrite16 a v).advance :=
  ⟨⟨fun _ _ => by simp, fun _ _ => by simp, ⟨by simp, by simp⟩, ⟨fun _ => by simp, by simp, by simp⟩,
    fun b hb => State.memWrite16_sameMemory s a v b hb, by simp⟩,
    movesOn_advance (by simp) (by simp) (by simp)⟩

/-- `MemWrite(a, 4, v)` and moving on. -/
theorem writesMemory32_advance (s : State) (a : Word) (v : Word) :
    WritesMemory (Width.word.span a) s (s.memWrite32 a v).advance ∧
      MovesOn s (s.memWrite32 a v).advance :=
  ⟨⟨fun _ _ => by simp, fun _ _ => by simp, ⟨by simp, by simp⟩, ⟨fun _ => by simp, by simp, by simp⟩,
    fun b hb => State.memWrite32_sameMemory s a v b hb, by simp⟩,
    movesOn_advance (by simp) (by simp) (by simp)⟩

/-! ### Operands and conditions -/

/-- `add_overflows` as a range of integers (spec/40_rtype_alu.md R131). -/
theorem addOverflows_iff (a b : Word) :
    addOverflows a b = true ↔ ¬ (-2 ^ 31 ≤ a.toInt + b.toInt ∧ a.toInt + b.toInt ≤ 2 ^ 31 - 1) := by
  simp only [addOverflows, Bool.and_eq_true, beq_iff_eq, bne_iff_ne, BitVec.msb_eq_toInt,
    BitVec.toInt_add, Int.bmod]
  have ha := BitVec.toInt_lt (x := a)
  have ha' := BitVec.le_toInt (x := a)
  have hb := BitVec.toInt_lt (x := b)
  have hb' := BitVec.le_toInt (x := b)
  simp only [decide_eq_decide, ne_eq]
  norm_num at *
  split <;> omega

/-- `sub_overflows` as a range of integers (spec/40_rtype_alu.md R131). -/
theorem subOverflows_iff (a b : Word) :
    subOverflows a b = true ↔ ¬ (-2 ^ 31 ≤ a.toInt - b.toInt ∧ a.toInt - b.toInt ≤ 2 ^ 31 - 1) := by
  simp only [subOverflows, Bool.and_eq_true, bne_iff_ne, BitVec.msb_eq_toInt,
    BitVec.toInt_sub, Int.bmod]
  have ha := BitVec.toInt_lt (x := a)
  have ha' := BitVec.le_toInt (x := a)
  have hb := BitVec.toInt_lt (x := b)
  have hb' := BitVec.le_toInt (x := b)
  simp only [decide_eq_decide, ne_eq]
  norm_num at *
  split <;> omega

/-- The number is odd as a number. -/
theorem oddFpr_eq_false_iff (f : FReg) : oddFpr f = false ↔ fprEven f = true := by
  revert f; decide

end Sys2Proof.Machine
end

