-- ==== Sys2Proof/Laws/PerInstr.lean ====
section
/-! SUPPORT. Statements made per instruction (LAWS.json): the opcode field of every instruction's word. -/

namespace Sys2Proof.Laws

/-- The primary opcode of an instruction (spec/30_encoding.md R94). -/
def opcodeOf : Instr → Nat
  | .sll .. | .srl .. | .sra .. | .sllv .. | .srlv .. | .srav .. | .jr .. | .jalr .. | .syscall
  | .brk | .mfhi .. | .mthi .. | .mflo .. | .mtlo .. | .mult .. | .multu .. | .div .. | .divu ..
  | .add .. | .addu .. | .sub .. | .subu .. | .and .. | .or .. | .xor .. | .nor .. | .slt ..
  | .sltu .. => 0x00
  | .bltz .. | .bgez .. => 0x01
  | .j .. => 0x02
  | .jal .. => 0x03
  | .beq .. => 0x04
  | .bne .. => 0x05
  | .blez .. => 0x06
  | .bgtz .. => 0x07
  | .addi .. => 0x08
  | .addiu .. => 0x09
  | .slti .. => 0x0a
  | .sltiu .. => 0x0b
  | .andi .. => 0x0c
  | .ori .. => 0x0d
  | .xori .. => 0x0e
  | .lui .. => 0x0f
  | .mfc0 .. => 0x10
  | .mfc1 .. | .mtc1 .. | .addS .. | .subS .. | .mulS .. | .divS .. | .movS .. | .cvtSW ..
  | .cvtWS .. => 0x11
  | .lb .. => 0x20
  | .lh .. => 0x21
  | .lw .. => 0x23
  | .lbu .. => 0x24
  | .lhu .. => 0x25
  | .sb .. => 0x28
  | .sh .. => 0x29
  | .sw .. => 0x2b
  | .lwc1 .. => 0x31
  | .swc1 .. => 0x39

/-- The word of an instruction has the instruction's primary opcode in bits 31..26 (R81, R94). -/
def OpcodeField.Statement (i : Instr) : Prop := (fieldOpcode (encode i)).toNat = opcodeOf i

theorem OpcodeField.sll (rd : Reg) (rt : Reg) (sa : Shamt) :
    OpcodeField.Statement (.sll rd rt sa) :=
  congrArg BitVec.toNat (fieldOpcode_encodeR _ _ _ _ _)

theorem OpcodeField.srl (rd : Reg) (rt : Reg) (sa : Shamt) :
    OpcodeField.Statement (.srl rd rt sa) :=
  congrArg BitVec.toNat (fieldOpcode_encodeR _ _ _ _ _)

theorem OpcodeField.sra (rd : Reg) (rt : Reg) (sa : Shamt) :
    OpcodeField.Statement (.sra rd rt sa) :=
  congrArg BitVec.toNat (fieldOpcode_encodeR _ _ _ _ _)

theorem OpcodeField.sllv (rd : Reg) (rt : Reg) (rs : Reg) :
    OpcodeField.Statement (.sllv rd rt rs) :=
  congrArg BitVec.toNat (fieldOpcode_encodeR _ _ _ _ _)

theorem OpcodeField.srlv (rd : Reg) (rt : Reg) (rs : Reg) :
    OpcodeField.Statement (.srlv rd rt rs) :=
  congrArg BitVec.toNat (fieldOpcode_encodeR _ _ _ _ _)

theorem OpcodeField.srav (rd : Reg) (rt : Reg) (rs : Reg) :
    OpcodeField.Statement (.srav rd rt rs) :=
  congrArg BitVec.toNat (fieldOpcode_encodeR _ _ _ _ _)

theorem OpcodeField.jr (rs : Reg) :
    OpcodeField.Statement (.jr rs) :=
  congrArg BitVec.toNat (fieldOpcode_encodeR _ _ _ _ _)

theorem OpcodeField.jalr (rd : Reg) (rs : Reg) :
    OpcodeField.Statement (.jalr rd rs) :=
  congrArg BitVec.toNat (fieldOpcode_encodeR _ _ _ _ _)

theorem OpcodeField.syscall :
    OpcodeField.Statement (.syscall) :=
  congrArg BitVec.toNat (fieldOpcode_encodeR _ _ _ _ _)

theorem OpcodeField.brk :
    OpcodeField.Statement (.brk) :=
  congrArg BitVec.toNat (fieldOpcode_encodeR _ _ _ _ _)

theorem OpcodeField.mfhi (rd : Reg) :
    OpcodeField.Statement (.mfhi rd) :=
  congrArg BitVec.toNat (fieldOpcode_encodeR _ _ _ _ _)

theorem OpcodeField.mthi (rs : Reg) :
    OpcodeField.Statement (.mthi rs) :=
  congrArg BitVec.toNat (fieldOpcode_encodeR _ _ _ _ _)

theorem OpcodeField.mflo (rd : Reg) :
    OpcodeField.Statement (.mflo rd) :=
  congrArg BitVec.toNat (fieldOpcode_encodeR _ _ _ _ _)

theorem OpcodeField.mtlo (rs : Reg) :
    OpcodeField.Statement (.mtlo rs) :=
  congrArg BitVec.toNat (fieldOpcode_encodeR _ _ _ _ _)

theorem OpcodeField.mult (rs : Reg) (rt : Reg) :
    OpcodeField.Statement (.mult rs rt) :=
  congrArg BitVec.toNat (fieldOpcode_encodeR _ _ _ _ _)

theorem OpcodeField.multu (rs : Reg) (rt : Reg) :
    OpcodeField.Statement (.multu rs rt) :=
  congrArg BitVec.toNat (fieldOpcode_encodeR _ _ _ _ _)

theorem OpcodeField.div (rs : Reg) (rt : Reg) :
    OpcodeField.Statement (.div rs rt) :=
  congrArg BitVec.toNat (fieldOpcode_encodeR _ _ _ _ _)

theorem OpcodeField.divu (rs : Reg) (rt : Reg) :
    OpcodeField.Statement (.divu rs rt) :=
  congrArg BitVec.toNat (fieldOpcode_encodeR _ _ _ _ _)

theorem OpcodeField.add (rd : Reg) (rs : Reg) (rt : Reg) :
    OpcodeField.Statement (.add rd rs rt) :=
  congrArg BitVec.toNat (fieldOpcode_encodeR _ _ _ _ _)

theorem OpcodeField.addu (rd : Reg) (rs : Reg) (rt : Reg) :
    OpcodeField.Statement (.addu rd rs rt) :=
  congrArg BitVec.toNat (fieldOpcode_encodeR _ _ _ _ _)

theorem OpcodeField.sub (rd : Reg) (rs : Reg) (rt : Reg) :
    OpcodeField.Statement (.sub rd rs rt) :=
  congrArg BitVec.toNat (fieldOpcode_encodeR _ _ _ _ _)

theorem OpcodeField.subu (rd : Reg) (rs : Reg) (rt : Reg) :
    OpcodeField.Statement (.subu rd rs rt) :=
  congrArg BitVec.toNat (fieldOpcode_encodeR _ _ _ _ _)

theorem OpcodeField.and (rd : Reg) (rs : Reg) (rt : Reg) :
    OpcodeField.Statement (.and rd rs rt) :=
  congrArg BitVec.toNat (fieldOpcode_encodeR _ _ _ _ _)

theorem OpcodeField.or (rd : Reg) (rs : Reg) (rt : Reg) :
    OpcodeField.Statement (.or rd rs rt) :=
  congrArg BitVec.toNat (fieldOpcode_encodeR _ _ _ _ _)

theorem OpcodeField.xor (rd : Reg) (rs : Reg) (rt : Reg) :
    OpcodeField.Statement (.xor rd rs rt) :=
  congrArg BitVec.toNat (fieldOpcode_encodeR _ _ _ _ _)

theorem OpcodeField.nor (rd : Reg) (rs : Reg) (rt : Reg) :
    OpcodeField.Statement (.nor rd rs rt) :=
  congrArg BitVec.toNat (fieldOpcode_encodeR _ _ _ _ _)

theorem OpcodeField.slt (rd : Reg) (rs : Reg) (rt : Reg) :
    OpcodeField.Statement (.slt rd rs rt) :=
  congrArg BitVec.toNat (fieldOpcode_encodeR _ _ _ _ _)

theorem OpcodeField.sltu (rd : Reg) (rs : Reg) (rt : Reg) :
    OpcodeField.Statement (.sltu rd rs rt) :=
  congrArg BitVec.toNat (fieldOpcode_encodeR _ _ _ _ _)

theorem OpcodeField.bltz (rs : Reg) (imm : Imm) :
    OpcodeField.Statement (.bltz rs imm) :=
  congrArg BitVec.toNat (fieldOpcode_encodeI _ _ _ _)

theorem OpcodeField.bgez (rs : Reg) (imm : Imm) :
    OpcodeField.Statement (.bgez rs imm) :=
  congrArg BitVec.toNat (fieldOpcode_encodeI _ _ _ _)

theorem OpcodeField.beq (rs : Reg) (rt : Reg) (imm : Imm) :
    OpcodeField.Statement (.beq rs rt imm) :=
  congrArg BitVec.toNat (fieldOpcode_encodeI _ _ _ _)

theorem OpcodeField.bne (rs : Reg) (rt : Reg) (imm : Imm) :
    OpcodeField.Statement (.bne rs rt imm) :=
  congrArg BitVec.toNat (fieldOpcode_encodeI _ _ _ _)

theorem OpcodeField.blez (rs : Reg) (imm : Imm) :
    OpcodeField.Statement (.blez rs imm) :=
  congrArg BitVec.toNat (fieldOpcode_encodeI _ _ _ _)

theorem OpcodeField.bgtz (rs : Reg) (imm : Imm) :
    OpcodeField.Statement (.bgtz rs imm) :=
  congrArg BitVec.toNat (fieldOpcode_encodeI _ _ _ _)

theorem OpcodeField.addi (rt : Reg) (rs : Reg) (imm : Imm) :
    OpcodeField.Statement (.addi rt rs imm) :=
  congrArg BitVec.toNat (fieldOpcode_encodeI _ _ _ _)

theorem OpcodeField.addiu (rt : Reg) (rs : Reg) (imm : Imm) :
    OpcodeField.Statement (.addiu rt rs imm) :=
  congrArg BitVec.toNat (fieldOpcode_encodeI _ _ _ _)

theorem OpcodeField.slti (rt : Reg) (rs : Reg) (imm : Imm) :
    OpcodeField.Statement (.slti rt rs imm) :=
  congrArg BitVec.toNat (fieldOpcode_encodeI _ _ _ _)

theorem OpcodeField.sltiu (rt : Reg) (rs : Reg) (imm : Imm) :
    OpcodeField.Statement (.sltiu rt rs imm) :=
  congrArg BitVec.toNat (fieldOpcode_encodeI _ _ _ _)

theorem OpcodeField.andi (rt : Reg) (rs : Reg) (imm : Imm) :
    OpcodeField.Statement (.andi rt rs imm) :=
  congrArg BitVec.toNat (fieldOpcode_encodeI _ _ _ _)

theorem OpcodeField.ori (rt : Reg) (rs : Reg) (imm : Imm) :
    OpcodeField.Statement (.ori rt rs imm) :=
  congrArg BitVec.toNat (fieldOpcode_encodeI _ _ _ _)

theorem OpcodeField.xori (rt : Reg) (rs : Reg) (imm : Imm) :
    OpcodeField.Statement (.xori rt rs imm) :=
  congrArg BitVec.toNat (fieldOpcode_encodeI _ _ _ _)

theorem OpcodeField.lui (rt : Reg) (imm : Imm) :
    OpcodeField.Statement (.lui rt imm) :=
  congrArg BitVec.toNat (fieldOpcode_encodeI _ _ _ _)

theorem OpcodeField.lb (rt : Reg) (imm : Imm) (rs : Reg) :
    OpcodeField.Statement (.lb rt imm rs) :=
  congrArg BitVec.toNat (fieldOpcode_encodeI _ _ _ _)

theorem OpcodeField.lh (rt : Reg) (imm : Imm) (rs : Reg) :
    OpcodeField.Statement (.lh rt imm rs) :=
  congrArg BitVec.toNat (fieldOpcode_encodeI _ _ _ _)

theorem OpcodeField.lw (rt : Reg) (imm : Imm) (rs : Reg) :
    OpcodeField.Statement (.lw rt imm rs) :=
  congrArg BitVec.toNat (fieldOpcode_encodeI _ _ _ _)

theorem OpcodeField.lbu (rt : Reg) (imm : Imm) (rs : Reg) :
    OpcodeField.Statement (.lbu rt imm rs) :=
  congrArg BitVec.toNat (fieldOpcode_encodeI _ _ _ _)

theorem OpcodeField.lhu (rt : Reg) (imm : Imm) (rs : Reg) :
    OpcodeField.Statement (.lhu rt imm rs) :=
  congrArg BitVec.toNat (fieldOpcode_encodeI _ _ _ _)

theorem OpcodeField.sb (rt : Reg) (imm : Imm) (rs : Reg) :
    OpcodeField.Statement (.sb rt imm rs) :=
  congrArg BitVec.toNat (fieldOpcode_encodeI _ _ _ _)

theorem OpcodeField.sh (rt : Reg) (imm : Imm) (rs : Reg) :
    OpcodeField.Statement (.sh rt imm rs) :=
  congrArg BitVec.toNat (fieldOpcode_encodeI _ _ _ _)

theorem OpcodeField.sw (rt : Reg) (imm : Imm) (rs : Reg) :
    OpcodeField.Statement (.sw rt imm rs) :=
  congrArg BitVec.toNat (fieldOpcode_encodeI _ _ _ _)

theorem OpcodeField.lwc1 (ft : FReg) (imm : Imm) (rs : Reg) :
    OpcodeField.Statement (.lwc1 ft imm rs) :=
  congrArg BitVec.toNat (fieldOpcode_encodeI _ _ _ _)

theorem OpcodeField.swc1 (ft : FReg) (imm : Imm) (rs : Reg) :
    OpcodeField.Statement (.swc1 ft imm rs) :=
  congrArg BitVec.toNat (fieldOpcode_encodeI _ _ _ _)

theorem OpcodeField.j (target : Target) :
    OpcodeField.Statement (.j target) :=
  congrArg BitVec.toNat (fieldOpcode_encodeJ _ _)

theorem OpcodeField.jal (target : Target) :
    OpcodeField.Statement (.jal target) :=
  congrArg BitVec.toNat (fieldOpcode_encodeJ _ _)

theorem OpcodeField.mfc0 (rt : Reg) (rd : CReg) :
    OpcodeField.Statement (.mfc0 rt rd) :=
  congrArg BitVec.toNat (fieldOpcode_encodeCop _ _ _ _ _ _)

theorem OpcodeField.mfc1 (rt : Reg) (fs : FReg) :
    OpcodeField.Statement (.mfc1 rt fs) :=
  congrArg BitVec.toNat (fieldOpcode_encodeCop _ _ _ _ _ _)

theorem OpcodeField.mtc1 (rt : Reg) (fs : FReg) :
    OpcodeField.Statement (.mtc1 rt fs) :=
  congrArg BitVec.toNat (fieldOpcode_encodeCop _ _ _ _ _ _)

theorem OpcodeField.addS (fd : FReg) (fs : FReg) (ft : FReg) :
    OpcodeField.Statement (.addS fd fs ft) :=
  congrArg BitVec.toNat (fieldOpcode_encodeCop _ _ _ _ _ _)

theorem OpcodeField.subS (fd : FReg) (fs : FReg) (ft : FReg) :
    OpcodeField.Statement (.subS fd fs ft) :=
  congrArg BitVec.toNat (fieldOpcode_encodeCop _ _ _ _ _ _)

theorem OpcodeField.mulS (fd : FReg) (fs : FReg) (ft : FReg) :
    OpcodeField.Statement (.mulS fd fs ft) :=
  congrArg BitVec.toNat (fieldOpcode_encodeCop _ _ _ _ _ _)

theorem OpcodeField.divS (fd : FReg) (fs : FReg) (ft : FReg) :
    OpcodeField.Statement (.divS fd fs ft) :=
  congrArg BitVec.toNat (fieldOpcode_encodeCop _ _ _ _ _ _)

theorem OpcodeField.movS (fd : FReg) (fs : FReg) :
    OpcodeField.Statement (.movS fd fs) :=
  congrArg BitVec.toNat (fieldOpcode_encodeCop _ _ _ _ _ _)

theorem OpcodeField.cvtSW (fd : FReg) (fs : FReg) :
    OpcodeField.Statement (.cvtSW fd fs) :=
  congrArg BitVec.toNat (fieldOpcode_encodeCop _ _ _ _ _ _)

theorem OpcodeField.cvtWS (fd : FReg) (fs : FReg) :
    OpcodeField.Statement (.cvtWS fd fs) :=
  congrArg BitVec.toNat (fieldOpcode_encodeCop _ _ _ _ _ _)

end Sys2Proof.Laws
end

