-- ==== Sys2Proof/Laws/Step.lean ====
section
/-! SUPPORT. Said once: everything one instruction, and one step, can do. -/

namespace Sys2Proof.Machine

/-- Everything an instruction can do to a state. -/
inductive ExecEffect (i : Instr) (s : State) : State → Prop where
  /-- it raises -/
  | raised (e : Exception) : ExecEffect i s (s.faulted e)
  /-- it writes its general register -/
  | wroteGpr (rd : Reg) (v : Word) (hi : i.isTransfer = false) (hd : i.gprDest = some rd) :
    ExecEffect i s (s.writeGpr rd v).advance
  /-- it writes its floating-point register -/
  | wroteFpr (fd : FReg) (v : Word) (hi : i.isTransfer = false) (hd : i.fprDest = some fd) :
    ExecEffect i s (s.writeFpr fd v).advance
  /-- it writes HI and LO, taking draws or not -/
  | wroteHiLo (hi lo : Word) (n : Nat) (ht : i.isTransfer = false) (hw : i.writesHiLo = true) :
    ExecEffect i s ({ s with hi := hi, lo := lo, draws := n } : State).advance
  /-- it stores a byte -/
  | stored8 (rs : Reg) (imm : Imm) (v : Byte) (hi : i.isTransfer = false)
    (ha : i.storeAccess = some (.byte, rs, imm)) (h : s.CanStore .byte (displaced (s.readGpr rs) imm)) :
    ExecEffect i s (s.memWrite8 (displaced (s.readGpr rs) imm) v).advance
  /-- it stores a halfword -/
  | stored16 (rs : Reg) (imm : Imm) (v : Half) (hi : i.isTransfer = false)
    (ha : i.storeAccess = some (.half, rs, imm)) (h : s.CanStore .half (displaced (s.readGpr rs) imm)) :
    ExecEffect i s (s.memWrite16 (displaced (s.readGpr rs) imm) v).advance
  /-- it stores a word -/
  | stored32 (rs : Reg) (imm : Imm) (v : Word) (hi : i.isTransfer = false)
    (ha : i.storeAccess = some (.word, rs, imm)) (h : s.CanStore .word (displaced (s.readGpr rs) imm)) :
    ExecEffect i s (s.memWrite32 (displaced (s.readGpr rs) imm) v).advance
  /-- it is a branch not taken -/
  | movedOn (hi : i.isTransfer = true) (h : ¬ s.InSlot) : ExecEffect i s s.advance
  /-- it transfers control -/
  | jumped (g : Word) (hi : i.isTransfer = true) (h : ¬ s.InSlot) : ExecEffect i s (s.transferTo g)
  /-- it transfers control and links -/
  | linked (rd : Reg) (v g : Word) (hi : i.isTransfer = true) (hd : i.gprDest = some rd)
    (h : ¬ s.InSlot) : ExecEffect i s ((s.writeGpr rd v).transferTo g)

/-- The outcome is a next state that the instruction's effects allow. -/
def Result.Allowed (i : Instr) (s : State) (r : Result) : Prop := ∃ t, r = .next t ∧ ExecEffect i s t

/-- Writing its general register is allowed. -/
theorem allowed_gpr {i : Instr} (s : State) {rd : Reg} (v : Word) (hi : i.isTransfer = false)
    (hd : i.gprDest = some rd) : Result.Allowed i s (s.writeGpr rd v).finish :=
  ⟨_, rfl, .wroteGpr rd v hi hd⟩

/-- A checked instruction is allowed if its effect is. -/
theorem allowed_checked {i : Instr} (s : State) (c : Bool) (e : Exception) (f : State → State)
    (h : ExecEffect i s (f s).advance) : Result.Allowed i s (s.checked c e f) := by
  cases c
  · exact ⟨_, rfl, h⟩
  · exact ⟨_, rfl, .raised e⟩

/-- A load is allowed if its effect is. -/
theorem allowed_load {i : Instr} (s : State) (w : Width) (a : Word) (f : State → State)
    (h : ExecEffect i s (f s).advance) : Result.Allowed i s (s.load w a f) := by
  cases hc : s.checkLoad w a with
  | none => exact ⟨_, State.load_completes f ((State.checkLoad_eq_none s w a).1 hc), h⟩
  | some e => exact ⟨_, State.load_raises f hc, .raised e⟩

/-- A store is allowed if its effect is, when it may be performed. -/
theorem allowed_store {i : Instr} (s : State) (w : Width) (a : Word) (f : State → State)
    (h : s.CanStore w a → ExecEffect i s (f s).advance) : Result.Allowed i s (s.store w a f) := by
  cases hc : s.checkStore w a with
  | none =>
    have hs := (State.checkStore_eq_none s w a).1 hc
    exact ⟨_, State.store_completes f hs, h hs⟩
  | some e => exact ⟨_, State.store_raises f hc, .raised e⟩

/-- A control transfer is allowed if its effect is, outside a delay slot. -/
theorem allowed_control {i : Instr} (s : State) (ir : Word) (f : State → State)
    (h : ¬ s.InSlot → ExecEffect i s (f s)) : Result.Allowed i s (s.control ir f) := by
  by_cases hs : s.InSlot
  · exact ⟨_, State.control_raises ir f hs, .raised _⟩
  · exact ⟨_, State.control_completes ir f hs, h hs⟩

/-- A branch is allowed. -/
theorem allowed_branch {i : Instr} (s : State) (ir : Word) (taken : Bool) (imm : Imm)
    (hi : i.isTransfer = true) : Result.Allowed i s (s.branch ir taken imm) := by
  refine allowed_control s ir _ fun hs => ?_
  cases taken
  · exact .movedOn hi hs
  · exact .jumped _ hi hs

/-- Writing HI and LO is allowed. -/
theorem allowed_hiLo {i : Instr} (s : State) (hi lo : Word) (n : Nat) (ht : i.isTransfer = false)
    (hw : i.writesHiLo = true) :
    Result.Allowed i s ({ s with hi := hi, lo := lo, draws := n } : State).finish :=
  ⟨_, rfl, .wroteHiLo hi lo n ht hw⟩

/-- Every instruction answers a next state, by one of the effects. -/
theorem exec_allowed (i : Instr) (s : State) : Result.Allowed i s (exec i s) := by
  cases i with
  | sll rd rt sa => exact allowed_gpr s _ rfl rfl
  | srl rd rt sa => exact allowed_gpr s _ rfl rfl
  | sra rd rt sa => exact allowed_gpr s _ rfl rfl
  | sllv rd rt rs => exact allowed_gpr s _ rfl rfl
  | srlv rd rt rs => exact allowed_gpr s _ rfl rfl
  | srav rd rt rs => exact allowed_gpr s _ rfl rfl
  | jr rs =>
    dsimp only [exec, execJr]
    refine allowed_control s _ _ ?_
    exact fun h => .jumped _ rfl h
  | jalr rd rs =>
    dsimp only [exec, execJalr]
    refine allowed_control s _ _ ?_
    exact fun h => .linked rd _ _ rfl rfl h
  | syscall => exact ⟨_, rfl, .raised _⟩
  | brk => exact ⟨_, rfl, .raised _⟩
  | mfhi rd => exact allowed_gpr s _ rfl rfl
  | mthi rs => exact allowed_hiLo s _ s.lo s.draws rfl rfl
  | mflo rd => exact allowed_gpr s _ rfl rfl
  | mtlo rs => exact allowed_hiLo s s.hi _ s.draws rfl rfl
  | mult rs rt => exact allowed_hiLo s _ _ s.draws rfl rfl
  | multu rs rt => exact allowed_hiLo s _ _ s.draws rfl rfl
  | div rs rt =>
    show Result.Allowed (.div rs rt) s (execDiv rs rt s)
    unfold execDiv
    simp only
    split
    · exact allowed_hiLo s _ _ _ rfl rfl
    · exact allowed_hiLo s _ _ s.draws rfl rfl
  | divu rs rt =>
    show Result.Allowed (.divu rs rt) s (execDivu rs rt s)
    unfold execDivu
    simp only
    split
    · exact allowed_hiLo s _ _ _ rfl rfl
    · exact allowed_hiLo s _ _ s.draws rfl rfl
  | add rd rs rt =>
    dsimp only [exec, execAdd]
    refine allowed_checked s _ _ _ ?_
    exact .wroteGpr rd _ rfl rfl
  | addu rd rs rt => exact allowed_gpr s _ rfl rfl
  | sub rd rs rt =>
    dsimp only [exec, execSub]
    refine allowed_checked s _ _ _ ?_
    exact .wroteGpr rd _ rfl rfl
  | subu rd rs rt => exact allowed_gpr s _ rfl rfl
  | and rd rs rt => exact allowed_gpr s _ rfl rfl
  | or rd rs rt => exact allowed_gpr s _ rfl rfl
  | xor rd rs rt => exact allowed_gpr s _ rfl rfl
  | nor rd rs rt => exact allowed_gpr s _ rfl rfl
  | slt rd rs rt => exact allowed_gpr s _ rfl rfl
  | sltu rd rs rt => exact allowed_gpr s _ rfl rfl
  | bltz rs imm => exact allowed_branch s _ _ _ rfl
  | bgez rs imm => exact allowed_branch s _ _ _ rfl
  | beq rs rt imm => exact allowed_branch s _ _ _ rfl
  | bne rs rt imm => exact allowed_branch s _ _ _ rfl
  | blez rs imm => exact allowed_branch s _ _ _ rfl
  | bgtz rs imm => exact allowed_branch s _ _ _ rfl
  | addi rt rs imm =>
    dsimp only [exec, execAddi]
    refine allowed_checked s _ _ _ ?_
    exact .wroteGpr rt _ rfl rfl
  | addiu rt rs imm => exact allowed_gpr s _ rfl rfl
  | slti rt rs imm => exact allowed_gpr s _ rfl rfl
  | sltiu rt rs imm => exact allowed_gpr s _ rfl rfl
  | andi rt rs imm => exact allowed_gpr s _ rfl rfl
  | ori rt rs imm => exact allowed_gpr s _ rfl rfl
  | xori rt rs imm => exact allowed_gpr s _ rfl rfl
  | lui rt imm => exact allowed_gpr s _ rfl rfl
  | lb rt imm rs =>
    dsimp only [exec, execLb]
    refine allowed_load s _ _ _ ?_
    exact .wroteGpr rt _ rfl rfl
  | lh rt imm rs =>
    dsimp only [exec, execLh]
    refine allowed_load s _ _ _ ?_
    exact .wroteGpr rt _ rfl rfl
  | lw rt imm rs =>
    dsimp only [exec, execLw]
    refine allowed_load s _ _ _ ?_
    exact .wroteGpr rt _ rfl rfl
  | lbu rt imm rs =>
    dsimp only [exec, execLbu]
    refine allowed_load s _ _ _ ?_
    exact .wroteGpr rt _ rfl rfl
  | lhu rt imm rs =>
    dsimp only [exec, execLhu]
    refine allowed_load s _ _ _ ?_
    exact .wroteGpr rt _ rfl rfl
  | sb rt imm rs =>
    dsimp only [exec, execSb]
    refine allowed_store s _ _ _ ?_
    exact fun h => .stored8 rs imm _ rfl rfl h
  | sh rt imm rs =>
    dsimp only [exec, execSh]
    refine allowed_store s _ _ _ ?_
    exact fun h => .stored16 rs imm _ rfl rfl h
  | sw rt imm rs =>
    dsimp only [exec, execSw]
    refine allowed_store s _ _ _ ?_
    exact fun h => .stored32 rs imm _ rfl rfl h
  | lwc1 ft imm rs =>
    dsimp only [exec, execLwc1]
    refine allowed_load s _ _ _ ?_
    exact .wroteFpr ft _ rfl rfl
  | swc1 ft imm rs =>
    dsimp only [exec, execSwc1]
    refine allowed_store s _ _ _ ?_
    exact fun h => .stored32 rs imm _ rfl rfl h
  | j target =>
    dsimp only [exec, execJ]
    refine allowed_control s _ _ ?_
    exact fun h => .jumped _ rfl h
  | jal target =>
    dsimp only [exec, execJal]
    refine allowed_control s _ _ ?_
    exact fun h => .linked 31#5 _ _ rfl rfl h
  | mfc0 rt rd => exact allowed_gpr s _ rfl rfl
  | mfc1 rt fs => exact allowed_gpr s _ rfl rfl
  | mtc1 rt fs => exact ⟨_, rfl, .wroteFpr fs _ rfl rfl⟩
  | addS fd fs ft =>
    dsimp only [exec, execAddS, State.fpResult]
    refine allowed_checked s _ _ _ ?_
    exact .wroteFpr fd _ rfl rfl
  | subS fd fs ft =>
    dsimp only [exec, execSubS, State.fpResult]
    refine allowed_checked s _ _ _ ?_
    exact .wroteFpr fd _ rfl rfl
  | mulS fd fs ft =>
    dsimp only [exec, execMulS, State.fpResult]
    refine allowed_checked s _ _ _ ?_
    exact .wroteFpr fd _ rfl rfl
  | divS fd fs ft =>
    dsimp only [exec, execDivS, State.fpResult]
    refine allowed_checked s _ _ _ ?_
    exact .wroteFpr fd _ rfl rfl
  | movS fd fs =>
    dsimp only [exec, execMovS, State.fpResult]
    refine allowed_checked s _ _ _ ?_
    exact .wroteFpr fd _ rfl rfl
  | cvtSW fd fs =>
    dsimp only [exec, execCvtSW, State.fpResult]
    refine allowed_checked s _ _ _ ?_
    exact .wroteFpr fd _ rfl rfl
  | cvtWS fd fs =>
    dsimp only [exec, execCvtWS, State.fpResult]
    refine allowed_checked s _ _ _ ?_
    exact .wroteFpr fd _ rfl rfl

/-- What an instruction's next state can be. -/
theorem exec_effect {i : Instr} {s t : State} (h : exec i s = .next t) : ExecEffect i s t := by
  obtain ⟨u, hu, he⟩ := exec_allowed i s
  rw [hu] at h
  cases h
  exact he

/-- A step of a running machine, by what its fetch answers. -/
theorem step_of_running {s : State} (h : s.status = .running) :
    step s = match s.fetch with
      | .error e => .next (s.faulted e)
      | .ok i => exec i s := by
  unfold step
  rw [h]
  rfl

/-- A step of a machine whose status is a fault. -/
theorem step_of_fault {s : State} {e : Exception} {pc : Word} (h : s.status = .fault e pc) :
    step s = .fault (.terminal e pc) := by
  unfold step
  rw [h]

/-- A step that answers a next state is taken by a running machine, and is one of the effects of the
instruction it runs, or of any instruction if its fetch raises. -/
theorem step_effect {s t : State} (h : step s = .next t) :
    s.status = .running ∧ ∃ i, ExecEffect i s t := by
  cases hs : s.status with
  | fault e pc => rw [step_of_fault hs] at h; cases h
  | running =>
    rw [step_of_running hs] at h
    cases hf : s.fetch with
    | error e => rw [hf] at h; cases h; exact ⟨rfl, .syscall, .raised e⟩
    | ok i => rw [hf] at h; exact ⟨rfl, i, exec_effect h⟩

/-- A fetch whose checks pass decodes the word at `pc`. -/
theorem State.fetch_of_canFetch {s : State} (h : s.CanFetch) :
    s.fetch = match decodeWord (s.memRead32 s.pc) with
      | .ok i => .ok i
      | .error _ => .error (.reservedInstruction (s.memRead32 s.pc)) := by
  cases hd : decodeWord (s.memRead32 s.pc) <;>
    simp [State.fetch, (State.checkFetch_eq_none s).2 h, hd]

/-- A fetch that a check stops. -/
theorem State.fetch_of_check {s : State} {e : Exception} (h : s.checkFetch = some e) :
    s.fetch = .error e := by
  simp [State.fetch, h]

/-! ### The three families with checks of their own -/

/-- Every load is the shared load at its address. -/
theorem exec_eq_load {i : Instr} {w : Width} {rs : Reg} {imm : Imm} (s : State)
    (h : i.loadAccess = some (w, rs, imm)) :
    ∃ f, exec i s = s.load w (displaced (s.readGpr rs) imm) f := by
  cases i <;> simp only [Instr.loadAccess, Option.some.injEq, Prod.mk.injEq, reduceCtorEq] at h <;>
    (obtain ⟨rfl, rfl, rfl⟩ := h
     dsimp only [exec, execLb, execLbu, execLh, execLhu, execLw, execLwc1]
     exact ⟨_, rfl⟩)

/-- Every store is the shared store at its address. -/
theorem exec_eq_store {i : Instr} {w : Width} {rs : Reg} {imm : Imm} (s : State)
    (h : i.storeAccess = some (w, rs, imm)) :
    ∃ f, exec i s = s.store w (displaced (s.readGpr rs) imm) f := by
  cases i <;> simp only [Instr.storeAccess, Option.some.injEq, Prod.mk.injEq, reduceCtorEq] at h <;>
    (obtain ⟨rfl, rfl, rfl⟩ := h
     dsimp only [exec, execSb, execSh, execSw, execSwc1]
     exact ⟨_, rfl⟩)

/-- Every branch or jump is the shared transfer with its own word. -/
theorem exec_eq_control {i : Instr} (s : State) (h : i.isTransfer = true) :
    ∃ f, exec i s = s.control (encode i) f ∧ ∀ u : State, (f u).status = u.status := by
  cases i <;> simp only [Instr.isTransfer, Bool.false_eq_true] at h
  case bltz | bgez | beq | bne | blez | bgtz =>
    dsimp only [exec, execBltz, execBgez, execBeq, execBne, execBlez, execBgtz, State.branch]
    refine ⟨_, rfl, fun u => ?_⟩
    split <;> rfl
  case j | jal | jr | jalr =>
    dsimp only [exec, execJ, execJal, execJr, execJalr]
    exact ⟨_, rfl, fun u => rfl⟩

/-- An instruction that is no branch or jump raises, or moves on without touching what the next pc is
computed from. -/
theorem exec_movesOn {i : Instr} {s t : State} (hi : i.isTransfer = false) (h : exec i s = .next t) :
    (∃ e, t = s.faulted e) ∨ (MovesOn s t ∧ t.cfg = s.cfg ∧ t.status = s.status) := by
  cases exec_effect h with
  | raised e => exact .inl ⟨e, rfl⟩
  | wroteGpr rd v => exact .inr ⟨(writesGpr_advance s rd v).2, rfl, rfl⟩
  | wroteFpr fd v => exact .inr ⟨(writesFpr_advance s fd v).2, rfl, rfl⟩
  | wroteHiLo hi lo n => exact .inr ⟨(writesHiLo_advance s hi lo n).2, rfl, rfl⟩
  | stored8 rs imm v => exact .inr ⟨(writesMemory8_advance s _ v).2, by simp, by simp⟩
  | stored16 rs imm v => exact .inr ⟨(writesMemory16_advance s _ v).2, by simp, by simp⟩
  | stored32 rs imm v => exact .inr ⟨(writesMemory32_advance s _ v).2, by simp, by simp⟩
  | movedOn ht => exact absurd hi (by simp [ht])
  | jumped g ht => exact absurd hi (by simp [ht])
  | linked rd v g ht => exact absurd hi (by simp [ht])

end Sys2Proof.Machine
end

