-- ==== Sys2Proof/Tests/Slice0.lean ====
section
/-! SUPPORT. Small checks of the model: ill-formed terms, decoding of words written out from the spec's
encodings, one step of an instruction (expected values from spec/95_test_vectors.md), and, for each
statement with hypotheses, a state and operands that meet them. -/

namespace Sys2Proof.Tests

open Sys2Proof.Machine

/-! ### Helpers -/

/-- The eight data bytes of spec/95_test_vectors.md section 2.7. -/
def dataBytes : Memory :=
  [(0x10010000, 0x80), (0x10010001, 0x81), (0x10010002, 0x82), (0x10010003, 0x83),
   (0x10010004, 0x04), (0x10010005, 0x05), (0x10010006, 0x06), (0x10010007, 0x07)]

/-- A running machine at `pc` whose next instruction is the word `w`, with the data bytes mapped. -/
def machineAt (e : Endian) (slots : Bool) (pc : Word) (w : Nat) : State :=
  let cfg : Config := ⟨e, slots, [⟨0x10010000, 8⟩], []⟩
  State.withFetchWord { State.reset with pc := pc, mem := dataBytes, cfg := cfg } 32 w

/-- The same, little-endian, without delay slots, at 0x00400000. -/
def machine (w : Nat) : State := machineAt .little false 0x00400000 w

/-- General registers given values. -/
def given (s : State) (xs : List (Reg × Word)) : State :=
  xs.foldl (fun s p => s.writeGpr p.1 p.2) s

/-- A coprocessor-0 register given a launch value. -/
def withCp0 (s : State) (c : CReg) (v : Word) : State :=
  { s with cp0 := s.cp0.set c.toNat v c.isLt }

/-- The state a step leaves, or the state itself where it leaves none. -/
def after (s : State) : State :=
  match step s with
  | .next t => t
  | .fault _ => s
  | .refused _ => s

/-! ### Well-formedness: an ill-formed term for each check -/

theorem test_wf_even_registers :
    (Instr.addS 2 4 6).wellFormed = true ∧ (Instr.movS 30 0).wellFormed = true ∧
    (Instr.lwc1 3 0 1).wellFormed = true ∧ (Instr.mtc1 1 31).wellFormed = true := by decide

theorem test_wf_odd_fd :
    (Instr.addS 3 4 6).wellFormed = false ∧ (Instr.subS 3 4 6).wellFormed = false ∧
    (Instr.mulS 3 4 6).wellFormed = false ∧ (Instr.divS 3 4 6).wellFormed = false ∧
    (Instr.movS 3 4).wellFormed = false ∧ (Instr.cvtSW 3 4).wellFormed = false ∧
    (Instr.cvtWS 3 4).wellFormed = false := by decide

theorem test_wf_odd_fs :
    (Instr.addS 2 5 6).wellFormed = false ∧ (Instr.subS 2 5 6).wellFormed = false ∧
    (Instr.mulS 2 5 6).wellFormed = false ∧ (Instr.divS 2 5 6).wellFormed = false ∧
    (Instr.movS 2 5).wellFormed = false ∧ (Instr.cvtSW 2 5).wellFormed = false ∧
    (Instr.cvtWS 2 5).wellFormed = false := by decide

theorem test_wf_odd_ft :
    (Instr.addS 2 4 7).wellFormed = false ∧ (Instr.subS 2 4 7).wellFormed = false ∧
    (Instr.mulS 2 4 7).wellFormed = false ∧ (Instr.divS 2 4 7).wellFormed = false := by decide

theorem test_wf_region :
    (Region.mk 0 (2 ^ 32)).wellFormed = true ∧ (Region.mk 1 (2 ^ 32)).wellFormed = false := by decide

theorem test_wf_config_mapped :
    (Config.mk .big false [⟨0xFFFFFFFC, 4⟩] []).wellFormed = true ∧
    (Config.mk .big false [⟨0, 4⟩, ⟨0xFFFFFFFC, 5⟩] []).wellFormed = false := by decide

theorem test_wf_config_text :
    (Config.mk .big false [] [⟨0xFFFFFFFC, 4⟩]).wellFormed = true ∧
    (Config.mk .big false [] [⟨0, 4⟩, ⟨0xFFFFFFFC, 8⟩]).wellFormed = false := by decide

theorem test_wf_memory :
    Memory.wf dataBytes = true ∧ Memory.wf [(4, 1), (4, 2)] = false ∧
    Memory.wf [(5, 1), (4, 2)] = false ∧ Memory.wf [(4, 0)] = false ∧
    Memory.wf [(2 ^ 32, 1)] = false := by decide

theorem test_wf_launch :
    (Launch.default.withProgram 0x00400000 [0x0000000D]).wellFormed = true ∧
    Launch.default.wellFormed = false ∧
    (Launch.mk Launch.default.cfg 0x00400002 [] Launch.default.cp0Init Launch.default.gpr 0 0
      Launch.default.fpr).wellFormed = false := by decide

/-! ### Decoding: words written out bit by bit from spec/30_encoding.md R82 to R99 -/

theorem test_decode_shift :
    decodeTableWord 32 0b000000_00000_10010_00111_10101_000000 = some (.sll 7 18 21) ∧
    decodeTableWord 32 0b000000_00000_10010_00111_10101_000010 = some (.srl 7 18 21) ∧
    decodeTableWord 32 0b000000_00000_10010_00111_10101_000011 = some (.sra 7 18 21) ∧
    decodeTableWord 32 0b000000_00001_10010_00111_00000_000100 = some (.sllv 7 18 1) ∧
    decodeTableWord 32 0b000000_00001_10010_00111_00000_000110 = some (.srlv 7 18 1) ∧
    decodeTableWord 32 0b000000_00001_10010_00111_00000_000111 = some (.srav 7 18 1) := by decide

theorem test_decode_jump_system :
    decodeTableWord 32 0b000000_00001_00000_00000_00000_001000 = some (.jr 1) ∧
    decodeTableWord 32 0b000000_00001_00000_00111_00000_001001 = some (.jalr 7 1) ∧
    decodeTableWord 32 0b000000_00000_00000_00000_00000_001100 = some .syscall ∧
    decodeTableWord 32 0b000000_00000_00000_00000_00000_001101 = some .brk := by decide

theorem test_decode_muldiv :
    decodeTableWord 32 0b000000_00000_00000_00111_00000_010000 = some (.mfhi 7) ∧
    decodeTableWord 32 0b000000_00001_00000_00000_00000_010001 = some (.mthi 1) ∧
    decodeTableWord 32 0b000000_00000_00000_00111_00000_010010 = some (.mflo 7) ∧
    decodeTableWord 32 0b000000_00001_00000_00000_00000_010011 = some (.mtlo 1) ∧
    decodeTableWord 32 0b000000_00001_10010_00000_00000_011000 = some (.mult 1 18) ∧
    decodeTableWord 32 0b000000_00001_10010_00000_00000_011001 = some (.multu 1 18) ∧
    decodeTableWord 32 0b000000_00001_10010_00000_00000_011010 = some (.div 1 18) ∧
    decodeTableWord 32 0b000000_00001_10010_00000_00000_011011 = some (.divu 1 18) := by decide

theorem test_decode_alu_1 :
    decodeTableWord 32 0b000000_00001_10010_00111_00000_100000 = some (.add 7 1 18) ∧
    decodeTableWord 32 0b000000_00001_10010_00111_00000_100001 = some (.addu 7 1 18) ∧
    decodeTableWord 32 0b000000_00001_10010_00111_00000_100010 = some (.sub 7 1 18) ∧
    decodeTableWord 32 0b000000_00001_10010_00111_00000_100011 = some (.subu 7 1 18) ∧
    decodeTableWord 32 0b000000_00001_10010_00111_00000_100100 = some (.and 7 1 18) ∧
    decodeTableWord 32 0b000000_00001_10010_00111_00000_100101 = some (.or 7 1 18) ∧
    decodeTableWord 32 0b000000_00001_10010_00111_00000_100110 = some (.xor 7 1 18) ∧
    decodeTableWord 32 0b000000_00001_10010_00111_00000_100111 = some (.nor 7 1 18) := by decide

theorem test_decode_alu_2 :
    decodeTableWord 32 0b000000_00001_10010_00111_00000_101010 = some (.slt 7 1 18) ∧
    decodeTableWord 32 0b000000_00001_10010_00111_00000_101011 = some (.sltu 7 1 18) := by decide

theorem test_decode_branch :
    decodeTableWord 32 0b000001_00001_00000_1000000000000110 = some (.bltz 1 0x8006) ∧
    decodeTableWord 32 0b000001_00001_00001_1000000000000110 = some (.bgez 1 0x8006) ∧
    decodeTableWord 32 0b000100_00001_10010_1000000000000110 = some (.beq 1 18 0x8006) ∧
    decodeTableWord 32 0b000101_00001_10010_1000000000000110 = some (.bne 1 18 0x8006) ∧
    decodeTableWord 32 0b000110_00001_00000_1000000000000110 = some (.blez 1 0x8006) ∧
    decodeTableWord 32 0b000111_00001_00000_1000000000000110 = some (.bgtz 1 0x8006) := by decide

theorem test_decode_alu_imm :
    decodeTableWord 32 0b001000_00001_10010_1000000000000110 = some (.addi 18 1 0x8006) ∧
    decodeTableWord 32 0b001001_00001_10010_1000000000000110 = some (.addiu 18 1 0x8006) ∧
    decodeTableWord 32 0b001010_00001_10010_1000000000000110 = some (.slti 18 1 0x8006) ∧
    decodeTableWord 32 0b001011_00001_10010_1000000000000110 = some (.sltiu 18 1 0x8006) ∧
    decodeTableWord 32 0b001100_00001_10010_1000000000000110 = some (.andi 18 1 0x8006) ∧
    decodeTableWord 32 0b001101_00001_10010_1000000000000110 = some (.ori 18 1 0x8006) ∧
    decodeTableWord 32 0b001110_00001_10010_1000000000000110 = some (.xori 18 1 0x8006) ∧
    decodeTableWord 32 0b001111_00000_10010_1000000000000110 = some (.lui 18 0x8006) := by decide

theorem test_decode_loadstore_1 :
    decodeTableWord 32 0b100000_00001_10010_1000000000000110 = some (.lb 18 0x8006 1) ∧
    decodeTableWord 32 0b100001_00001_10010_1000000000000110 = some (.lh 18 0x8006 1) ∧
    decodeTableWord 32 0b100011_00001_10010_1000000000000110 = some (.lw 18 0x8006 1) ∧
    decodeTableWord 32 0b100100_00001_10010_1000000000000110 = some (.lbu 18 0x8006 1) ∧
    decodeTableWord 32 0b100101_00001_10010_1000000000000110 = some (.lhu 18 0x8006 1) ∧
    decodeTableWord 32 0b101000_00001_10010_1000000000000110 = some (.sb 18 0x8006 1) ∧
    decodeTableWord 32 0b101001_00001_10010_1000000000000110 = some (.sh 18 0x8006 1) ∧
    decodeTableWord 32 0b101011_00001_10010_1000000000000110 = some (.sw 18 0x8006 1) := by decide

theorem test_decode_loadstore_2 :
    decodeTableWord 32 0b110001_00001_00110_1000000000000110 = some (.lwc1 6 0x8006 1) ∧
    decodeTableWord 32 0b111001_00001_00110_1000000000000110 = some (.swc1 6 0x8006 1) := by decide

theorem test_decode_jump :
    decodeTableWord 32 0b000010_10101000000000000000010001 = some (.j 0x2a00011) ∧
    decodeTableWord 32 0b000011_10101000000000000000010001 = some (.jal 0x2a00011) := by decide

theorem test_decode_coprocessor_1 :
    decodeTableWord 32 0b010000_00000_10010_00111_00000_000000 = some (.mfc0 18 7) ∧
    decodeTableWord 32 0b010001_00000_10010_10100_00000_000000 = some (.mfc1 18 20) ∧
    decodeTableWord 32 0b010001_00100_10010_10100_00000_000000 = some (.mtc1 18 20) ∧
    decodeTableWord 32 0b010001_10000_00110_10100_01010_000000 = some (.addS 10 20 6) ∧
    decodeTableWord 32 0b010001_10000_00110_10100_01010_000001 = some (.subS 10 20 6) ∧
    decodeTableWord 32 0b010001_10000_00110_10100_01010_000010 = some (.mulS 10 20 6) ∧
    decodeTableWord 32 0b010001_10000_00110_10100_01010_000011 = some (.divS 10 20 6) ∧
    decodeTableWord 32 0b010001_10000_00000_10100_01010_000110 = some (.movS 10 20) := by decide

theorem test_decode_coprocessor_2 :
    decodeTableWord 32 0b010001_10100_00000_10100_01010_100000 = some (.cvtSW 10 20) ∧
    decodeTableWord 32 0b010001_10000_00000_10100_01010_100100 = some (.cvtWS 10 20) := by decide

/-! ### Words that match no row (spec/95_test_vectors.md section 2) -/

theorem test_rejects_unused_fields :
    decodeWord 0x00221860 = .error .unusedFieldNotZero ∧
    decodeWord 0x00211100 = .error .unusedFieldNotZero ∧
    decodeWord 0x00221818 = .error .unusedFieldNotZero ∧
    decodeWord 0x0000004C = .error .unusedFieldNotZero ∧
    decodeWord 0x3C221234 = .error .unusedFieldNotZero := ⟨rfl, rfl, rfl, rfl, rfl⟩

theorem test_rejects_codes :
    decodeWord 0x00000001 = .error .reservedFunct ∧
    decodeWord 0x04220000 = .error .reservedRtExtension ∧
    decodeWord 0x18210004 = .error .reservedRtExtension ∧
    decodeWord 0x46262080 = .error .reservedFormat ∧
    decodeWord 0x40826000 = .error .reservedFormat ∧
    decodeWord 0xFFFFFFFF = .error .reservedOpcode := ⟨rfl, rfl, rfl, rfl, rfl, rfl⟩

theorem test_decode_needs_four_bytes : decode .big [0x00, 0x22, 0x18] = .error .truncated := rfl

theorem test_decode_byte_orders :
    decode .big [0x00, 0x22, 0x18, 0x20, 0xAA] = .ok (.add 3 1 2, [0xAA]) ∧
    decode .little [0x20, 0x18, 0x22, 0x00, 0xAA] = .ok (.add 3 1 2, [0xAA]) := ⟨rfl, rfl⟩

theorem test_opcode_table_has_64_rows : opcodeTable.length = 64 := by decide

/-! ### Reset and the first step -/

theorem test_reset_first_step :
    State.reset.pc = 0x00400000 ∧ State.reset.status = .running ∧ State.reset.readGpr 0 = 0 ∧
    State.reset.delay = none ∧
    (after State.reset).status = .fault (.busError .fetch 0x00400000) 0x00400000 := by decide

theorem test_reset_registers_are_not_zero :
    State.reset.readGpr 1 = unspecifiedWord ∧ State.reset.readFpr 0 = unspecifiedWord ∧
    State.reset.readCp0 12 = unspecifiedWord ∧ State.reset.hi = unspecifiedWord ∧
    unspecifiedWord ≠ 0 := by decide

theorem test_fault_takes_no_step : step (after (machine 0x0000000D)) =
    .fault (.terminal .breakpoint 0x00400000) := rfl

/-! ### One step of each instruction -/

/-! ### R-type arithmetic and logic: spec/95_test_vectors.md section 2.1 -/

theorem test_step_add :
    let t := after (given (machine 0x00221820) [(1, 0x00000005), (2, 0x00000007)])
    t.readGpr 3 = 0x0000000C ∧ t.pc = 0x00400004 := by decide

theorem test_step_add_second :
    let t := after (given (machine 0x00221820) [(1, 0x7FFFFFFF), (2, 0x00000001)])
    t.status = .fault .integerOverflow 0x00400000 ∧ t.pc = 0x00400000 := by decide

theorem test_step_addu :
    let t := after (given (machine 0x00221821) [(1, 0x7FFFFFFF), (2, 0x00000001)])
    t.readGpr 3 = 0x80000000 ∧ t.pc = 0x00400004 := by decide

theorem test_step_addu_second :
    let t := after (given (machine 0x00221821) [(1, 0xFFFFFFFF), (2, 0x00000001)])
    t.readGpr 3 = 0x00000000 ∧ t.pc = 0x00400004 := by decide

theorem test_step_sub :
    let t := after (given (machine 0x00221822) [(1, 0x00000005), (2, 0x00000007)])
    t.readGpr 3 = 0xFFFFFFFE ∧ t.pc = 0x00400004 := by decide

theorem test_step_sub_second :
    let t := after (given (machine 0x00221822) [(1, 0x80000000), (2, 0x00000001)])
    t.status = .fault .integerOverflow 0x00400000 ∧ t.pc = 0x00400000 := by decide

theorem test_step_subu :
    let t := after (given (machine 0x00221823) [(1, 0x80000000), (2, 0x00000001)])
    t.readGpr 3 = 0x7FFFFFFF ∧ t.pc = 0x00400004 := by decide

theorem test_step_subu_second :
    let t := after (given (machine 0x00221823) [(1, 0x00000000), (2, 0x00000001)])
    t.readGpr 3 = 0xFFFFFFFF ∧ t.pc = 0x00400004 := by decide

theorem test_step_and :
    let t := after (given (machine 0x00221824) [(1, 0xFF00FF00), (2, 0x0FF00FF0)])
    t.readGpr 3 = 0x0F000F00 ∧ t.pc = 0x00400004 := by decide

theorem test_step_or :
    let t := after (given (machine 0x00221825) [(1, 0xFF00FF00), (2, 0x0FF00FF0)])
    t.readGpr 3 = 0xFFF0FFF0 ∧ t.pc = 0x00400004 := by decide

theorem test_step_xor :
    let t := after (given (machine 0x00221826) [(1, 0xFF00FF00), (2, 0x0FF00FF0)])
    t.readGpr 3 = 0xF0F0F0F0 ∧ t.pc = 0x00400004 := by decide

theorem test_step_nor :
    let t := after (given (machine 0x00221827) [(1, 0xFF00FF00), (2, 0x0FF00FF0)])
    t.readGpr 3 = 0x000F000F ∧ t.pc = 0x00400004 := by decide

theorem test_step_nor_second :
    let t := after ((machine 0x00001827))
    t.readGpr 3 = 0xFFFFFFFF ∧ t.pc = 0x00400004 := by decide

theorem test_step_slt :
    let t := after (given (machine 0x0022182A) [(1, 0x80000000), (2, 0x7FFFFFFF)])
    t.readGpr 3 = 0x00000001 ∧ t.pc = 0x00400004 := by decide

theorem test_step_slt_second :
    let t := after (given (machine 0x0021182A) [(1, 0x00000007)])
    t.readGpr 3 = 0x00000000 ∧ t.pc = 0x00400004 := by decide

theorem test_step_sltu :
    let t := after (given (machine 0x0022182B) [(1, 0x80000000), (2, 0x7FFFFFFF)])
    t.readGpr 3 = 0x00000000 ∧ t.pc = 0x00400004 := by decide

theorem test_step_sltu_second :
    let t := after (given (machine 0x0022182B) [(1, 0x00000000), (2, 0xFFFFFFFF)])
    t.readGpr 3 = 0x00000001 ∧ t.pc = 0x00400004 := by decide

/-! ### Shifts: spec/95_test_vectors.md section 2.2 -/

theorem test_step_sll :
    let t := after (given (machine 0x00011100) [(1, 0x80000001)])
    t.readGpr 2 = 0x00000010 ∧ t.pc = 0x00400004 := by decide

theorem test_step_sll_second :
    let t := after (given (machine 0x000117C0) [(1, 0x00000003)])
    t.readGpr 2 = 0x80000000 ∧ t.pc = 0x00400004 := by decide

theorem test_step_srl :
    let t := after (given (machine 0x000117C2) [(1, 0x80000000)])
    t.readGpr 2 = 0x00000001 ∧ t.pc = 0x00400004 := by decide

theorem test_step_srl_second :
    let t := after (given (machine 0x00011102) [(1, 0xF0000000)])
    t.readGpr 2 = 0x0F000000 ∧ t.pc = 0x00400004 := by decide

theorem test_step_sra :
    let t := after (given (machine 0x00011103) [(1, 0xF0000000)])
    t.readGpr 2 = 0xFF000000 ∧ t.pc = 0x00400004 := by decide

theorem test_step_sra_second :
    let t := after (given (machine 0x00011103) [(1, 0x70000000)])
    t.readGpr 2 = 0x07000000 ∧ t.pc = 0x00400004 := by decide

theorem test_step_sllv :
    let t := after (given (machine 0x00411804) [(1, 0x00000001), (2, 0x00000021)])
    t.readGpr 3 = 0x00000002 ∧ t.pc = 0x00400004 := by decide

theorem test_step_sllv_second :
    let t := after (given (machine 0x00411804) [(1, 0x00000001), (2, 0xFFFFFFE0)])
    t.readGpr 3 = 0x00000001 ∧ t.pc = 0x00400004 := by decide

theorem test_step_srlv :
    let t := after (given (machine 0x00411806) [(1, 0x80000000), (2, 0x0000003F)])
    t.readGpr 3 = 0x00000001 ∧ t.pc = 0x00400004 := by decide

theorem test_step_srav :
    let t := after (given (machine 0x00411807) [(1, 0x80000000), (2, 0x0000003F)])
    t.readGpr 3 = 0xFFFFFFFF ∧ t.pc = 0x00400004 := by decide

theorem test_step_srav_second :
    let t := after (given (machine 0x00411807) [(1, 0x80000000), (2, 0x00000020)])
    t.readGpr 3 = 0x80000000 ∧ t.pc = 0x00400004 := by decide

/-! ### Multiply, divide, HI and LO: spec/95_test_vectors.md section 2.3 -/

theorem test_step_mult :
    let t := after (given (machine 0x00220018) [(1, 0x80000000), (2, 0x80000000)])
    t.hi = 0x40000000 ∧ t.lo = 0x00000000 ∧
      t.pc = 0x00400004 := by decide

theorem test_step_mult_second :
    let t := after (given (machine 0x00220018) [(1, 0xFFFFFFFE), (2, 0x00000003)])
    t.hi = 0xFFFFFFFF ∧ t.lo = 0xFFFFFFFA ∧
      t.pc = 0x00400004 := by decide

theorem test_step_multu :
    let t := after (given (machine 0x00220019) [(1, 0xFFFFFFFF), (2, 0xFFFFFFFF)])
    t.hi = 0xFFFFFFFE ∧ t.lo = 0x00000001 ∧
      t.pc = 0x00400004 := by decide

theorem test_step_multu_second :
    let t := after (given (machine 0x00220019) [(1, 0xFFFFFFFE), (2, 0x00000003)])
    t.hi = 0x00000002 ∧ t.lo = 0xFFFFFFFA ∧
      t.pc = 0x00400004 := by decide

theorem test_step_div :
    let t := after (given (machine 0x0022001A) [(1, 0xFFFFFFF9), (2, 0x00000002)])
    t.hi = 0xFFFFFFFF ∧ t.lo = 0xFFFFFFFD ∧
      t.pc = 0x00400004 := by decide

theorem test_step_divu :
    let t := after (given (machine 0x0022001B) [(1, 0xFFFFFFF9), (2, 0x00000002)])
    t.hi = 0x00000001 ∧ t.lo = 0x7FFFFFFC ∧
      t.pc = 0x00400004 := by decide

theorem test_step_mfhi :
    let t := after ((((machine 0x00001810)).writeHi 0x12345678).writeLo 0x9ABCDEF0)
    t.readGpr 3 = 0x12345678 ∧ t.pc = 0x00400004 := by decide

theorem test_step_mflo :
    let t := after ((((machine 0x00001812)).writeHi 0x12345678).writeLo 0x9ABCDEF0)
    t.readGpr 3 = 0x9ABCDEF0 ∧ t.pc = 0x00400004 := by decide

theorem test_step_mthi :
    let t := after (((given (machine 0x00200011) [(1, 0xCAFEBABE)]).writeHi 0x00000001).writeLo 0x00000002)
    t.hi = 0xCAFEBABE ∧ t.lo = 0x00000002 ∧
      t.pc = 0x00400004 := by decide

theorem test_step_mtlo :
    let t := after (((given (machine 0x00200013) [(1, 0xCAFEBABE)]).writeHi 0x00000001).writeLo 0x00000002)
    t.hi = 0x00000001 ∧ t.lo = 0xCAFEBABE ∧
      t.pc = 0x00400004 := by decide

/-- `div` by zero takes two draws (R159). -/
theorem test_step_div_zero :
    let t := after (given (machine 0x0022001A) [(1, 5), (2, 0)])
    t.lo = Config.any32 0 ∧ t.hi = Config.any32 1 ∧ t.draws = 2 ∧ t.pc = 0x00400004 :=
  ⟨rfl, rfl, rfl, rfl⟩

/-- `divu` by zero takes two draws (R159). -/
theorem test_step_divu_zero :
    let t := after (given (machine 0x0022001B) [(1, 5), (2, 0)])
    t.lo = Config.any32 0 ∧ t.hi = Config.any32 1 ∧ t.draws = 2 ∧ t.pc = 0x00400004 :=
  ⟨rfl, rfl, rfl, rfl⟩

/-! ### Register jumps, syscall, break: spec/95_test_vectors.md section 2.4 -/

theorem test_step_jr :
    let t := after (given (machine 0x03E00008) [(31, 0x00400100)])
    t.pc = 0x00400100 := by decide

theorem test_step_jalr :
    let t := after (given (machine 0x00401009) [(2, 0x00400200)])
    t.readGpr 2 = 0x00400004 ∧ t.pc = 0x00400200 := by decide

theorem test_step_jalr_second :
    let t := after (given (machineAt .little true 0x00400000 0x0040F809) [(2, 0x00400200)])
    t.readGpr 31 = 0x00400008 ∧ t.pc = 0x00400004 ∧
      t.delay = some 0x00400200 := by decide

theorem test_step_syscall :
    let t := after ((machine 0x0000000C))
    t.status = .fault .systemCall 0x00400000 ∧ t.pc = 0x00400000 := by decide

theorem test_step_break :
    let t := after ((machine 0x0000000D))
    t.status = .fault .breakpoint 0x00400000 ∧ t.pc = 0x00400000 := by decide

/-! ### I-type arithmetic and logic: spec/95_test_vectors.md section 2.5 -/

theorem test_step_addi :
    let t := after (given (machine 0x2022FFFF) [(1, 0x00000005)])
    t.readGpr 2 = 0x00000004 ∧ t.pc = 0x00400004 := by decide

theorem test_step_addi_second :
    let t := after (given (machine 0x20220001) [(1, 0x7FFFFFFF)])
    t.status = .fault .integerOverflow 0x00400000 ∧ t.pc = 0x00400000 := by decide

theorem test_step_addiu :
    let t := after (given (machine 0x24220001) [(1, 0x7FFFFFFF)])
    t.readGpr 2 = 0x80000000 ∧ t.pc = 0x00400004 := by decide

theorem test_step_addiu_second :
    let t := after (given (machine 0x2422FFFF) [(1, 0x00000000)])
    t.readGpr 2 = 0xFFFFFFFF ∧ t.pc = 0x00400004 := by decide

theorem test_step_slti :
    let t := after (given (machine 0x2822FFFF) [(1, 0xFFFFFFFE)])
    t.readGpr 2 = 0x00000001 ∧ t.pc = 0x00400004 := by decide

theorem test_step_slti_second :
    let t := after (given (machine 0x2822FFFF) [(1, 0x00000000)])
    t.readGpr 2 = 0x00000000 ∧ t.pc = 0x00400004 := by decide

theorem test_step_sltiu :
    let t := after (given (machine 0x2C22FFFF) [(1, 0xFFFFFFFE)])
    t.readGpr 2 = 0x00000001 ∧ t.pc = 0x00400004 := by decide

theorem test_step_sltiu_second :
    let t := after (given (machine 0x2C22FFFF) [(1, 0xFFFFFFFF)])
    t.readGpr 2 = 0x00000000 ∧ t.pc = 0x00400004 := by decide

theorem test_step_andi :
    let t := after (given (machine 0x30228000) [(1, 0xFFFFFFFF)])
    t.readGpr 2 = 0x00008000 ∧ t.pc = 0x00400004 := by decide

theorem test_step_ori :
    let t := after (given (machine 0x34228000) [(1, 0x12340000)])
    t.readGpr 2 = 0x12348000 ∧ t.pc = 0x00400004 := by decide

theorem test_step_xori :
    let t := after (given (machine 0x3822FFFF) [(1, 0xFFFFFFFF)])
    t.readGpr 2 = 0xFFFF0000 ∧ t.pc = 0x00400004 := by decide

theorem test_step_lui :
    let t := after (given (machine 0x3C021234) [(2, 0xFFFFFFFF)])
    t.readGpr 2 = 0x12340000 ∧ t.pc = 0x00400004 := by decide

theorem test_step_lui_second :
    let t := after (given (machine 0x3C028000) [(2, 0xFFFFFFFF)])
    t.readGpr 2 = 0x80000000 ∧ t.pc = 0x00400004 := by decide

/-! ### Branches: spec/95_test_vectors.md section 2.6 -/

theorem test_step_beq :
    let t := after (given (machine 0x10220003) [(1, 0x00000005), (2, 0x00000005)])
    t.pc = 0x00400010 := by decide

theorem test_step_beq_second :
    let t := after (given (machine 0x10220003) [(1, 0x00000005), (2, 0x00000006)])
    t.pc = 0x00400004 := by decide

theorem test_step_bne :
    let t := after (given (machine 0x1422FFFE) [(1, 0x00000005), (2, 0x00000006)])
    t.pc = 0x003FFFFC := by decide

theorem test_step_bne_second :
    let t := after (given (machine 0x1422FFFE) [(1, 0x00000005), (2, 0x00000005)])
    t.pc = 0x00400004 := by decide

theorem test_step_blez :
    let t := after (given (machine 0x18200004) [(1, 0x80000000)])
    t.pc = 0x00400014 := by decide

theorem test_step_blez_second :
    let t := after (given (machine 0x18200004) [(1, 0x00000001)])
    t.pc = 0x00400004 := by decide

theorem test_step_bgtz :
    let t := after (given (machine 0x1C200004) [(1, 0x00000001)])
    t.pc = 0x00400014 := by decide

theorem test_step_bgtz_second :
    let t := after (given (machine 0x1C200004) [(1, 0x80000000)])
    t.pc = 0x00400004 := by decide

theorem test_step_bltz :
    let t := after (given (machine 0x0420FFFF) [(1, 0xFFFFFFFF)])
    t.pc = 0x00400000 := by decide

theorem test_step_bltz_second :
    let t := after (given (machine 0x0420FFFF) [(1, 0x00000000)])
    t.pc = 0x00400004 := by decide

theorem test_step_bgez :
    let t := after (given (machine 0x04210002) [(1, 0x00000000)])
    t.pc = 0x0040000C := by decide

theorem test_step_bgez_second :
    let t := after (given (machine 0x04210002) [(1, 0x80000000)])
    t.pc = 0x00400004 := by decide

/-! ### Loads and stores: spec/95_test_vectors.md section 2.7 -/

theorem test_step_lb :
    let t := after (given (machineAt .big false 0x00400000 0x80220000) [(1, 0x10010000)])
    t.readGpr 2 = 0xFFFFFF80 ∧ t.pc = 0x00400004 := by decide

theorem test_step_lbu :
    let t := after (given (machineAt .big false 0x00400000 0x90220003) [(1, 0x10010000)])
    t.readGpr 2 = 0x00000083 ∧ t.pc = 0x00400004 := by decide

theorem test_step_lh :
    let t := after (given (machineAt .big false 0x00400000 0x84220000) [(1, 0x10010000)])
    t.readGpr 2 = 0xFFFF8081 ∧ t.pc = 0x00400004 := by decide

theorem test_step_lhu :
    let t := after (given (machine 0x94220000) [(1, 0x10010000)])
    t.readGpr 2 = 0x00008180 ∧ t.pc = 0x00400004 := by decide

theorem test_step_lhu_second :
    let t := after (given (machine 0x94220001) [(1, 0x10010000)])
    t.status = .fault (.addressError .load 0x10010001) 0x00400000 ∧ t.pc = 0x00400000 := by decide

theorem test_step_lw :
    let t := after (given (machine 0x8C22FFFC) [(1, 0x10010004)])
    t.readGpr 2 = 0x83828180 ∧ t.pc = 0x00400004 := by decide

theorem test_step_sb :
    let t := after (given (machine 0xA0220001) [(1, 0x10010000), (2, 0x123456AB)])
    t.byteAt 0x10010001 = 0xAB ∧ t.pc = 0x00400004 := by decide

theorem test_step_sh :
    let t := after (given (machine 0xA4220002) [(1, 0x10010000), (2, 0x1234ABCD)])
    t.byteAt 0x10010002 = 0xCD ∧ t.byteAt 0x10010003 = 0xAB ∧
      t.byteAt 0x10010004 = 0x04 ∧ t.pc = 0x00400004 := by decide

theorem test_step_sh_second :
    let t := after (given (machine 0xA4220003) [(1, 0x10010000), (2, 0x1234ABCD)])
    t.status = .fault (.addressError .store 0x10010003) 0x00400000 ∧ t.pc = 0x00400000 := by decide

theorem test_step_sw :
    let t := after (given (machine 0xAC220004) [(1, 0x10010000), (2, 0x11223344)])
    t.byteAt 0x10010004 = 0x44 ∧ t.byteAt 0x10010005 = 0x33 ∧
      t.byteAt 0x10010006 = 0x22 ∧ t.byteAt 0x10010007 = 0x11 ∧
      t.pc = 0x00400004 := by decide

theorem test_step_sw_second :
    let t := after (given (machine 0xAC220006) [(1, 0x10010000), (2, 0x11223344)])
    t.status = .fault (.addressError .store 0x10010006) 0x00400000 ∧ t.pc = 0x00400000 := by decide

theorem test_step_lwc1 :
    let t := after (given (machineAt .big false 0x00400000 0xC4230000) [(1, 0x10010000)])
    t.readFpr 3 = 0x80818283 ∧ t.pc = 0x00400004 := by decide

theorem test_step_swc1 :
    let t := after ((given (machineAt .big false 0x00400000 0xE4230004) [(1, 0x10010000)]).writeFpr 3 0xA1B2C3D4)
    t.byteAt 0x10010004 = 0xA1 ∧ t.byteAt 0x10010005 = 0xB2 ∧
      t.byteAt 0x10010006 = 0xC3 ∧ t.byteAt 0x10010007 = 0xD4 ∧
      t.pc = 0x00400004 := by decide

/-! ### Jumps: spec/95_test_vectors.md section 2.8 -/

theorem test_step_j :
    let t := after ((machine 0x08100008))
    t.pc = 0x00400020 := by decide

theorem test_step_j_second :
    let t := after ((machineAt .little false 0x0FFFFFFC 0x08000000))
    t.pc = 0x10000000 := by decide

theorem test_step_jal :
    let t := after ((machine 0x0C100040))
    t.readGpr 31 = 0x00400004 ∧ t.pc = 0x00400100 := by decide

theorem test_step_jal_second :
    let t := after ((machineAt .little true 0x00400000 0x0C100040))
    t.readGpr 31 = 0x00400008 ∧ t.pc = 0x00400004 ∧
      t.delay = some 0x00400100 := by decide

/-! ### Coprocessor: spec/95_test_vectors.md section 2.9 -/

theorem test_step_mfc1 :
    let t := after (((machine 0x44022000)).writeFpr 4 0xC0490FDB)
    t.readGpr 2 = 0xC0490FDB ∧ t.pc = 0x00400004 := by decide

theorem test_step_mfc1_second :
    let t := after (((machine 0x44022800)).writeFpr 5 0x00000001)
    t.readGpr 2 = 0x00000001 ∧ t.pc = 0x00400004 := by decide

theorem test_step_mtc1 :
    let t := after (given (machine 0x44822000) [(2, 0x3F800000)])
    t.readFpr 4 = 0x3F800000 ∧ t.pc = 0x00400004 := by decide

theorem test_step_mtc1_second :
    let t := after ((machine 0x44802000))
    t.readFpr 4 = 0x00000000 ∧ t.pc = 0x00400004 := by decide

theorem test_step_mov_s :
    let t := after (((machine 0x46002086)).writeFpr 4 0x7FC00001)
    t.readFpr 2 = 0x7FC00001 ∧ t.pc = 0x00400004 := by decide

theorem test_step_mov_s_second :
    let t := after ((machine 0x460020C6))
    t.status = .fault (.reservedInstruction 0x460020C6) 0x00400000 ∧ t.pc = 0x00400000 := by decide

theorem test_step_add_s :
    let t := after (((machine 0x46062080).writeFpr 4 0x3F800000).writeFpr 6 0x40000000)
    t.readFpr 2 = Config.fpAddS 0x3F800000 0x40000000 ∧ t.pc = 0x00400004 := ⟨rfl, rfl⟩

theorem test_step_sub_s :
    let t := after (((machine 0x46062081).writeFpr 4 0x3F800000).writeFpr 6 0x40000000)
    t.readFpr 2 = Config.fpSubS 0x3F800000 0x40000000 ∧ t.pc = 0x00400004 := ⟨rfl, rfl⟩

theorem test_step_mul_s :
    let t := after (((machine 0x46062082).writeFpr 4 0x3F800000).writeFpr 6 0x40000000)
    t.readFpr 2 = Config.fpMulS 0x3F800000 0x40000000 ∧ t.pc = 0x00400004 := ⟨rfl, rfl⟩

theorem test_step_div_s :
    let t := after (((machine 0x46062083).writeFpr 4 0x3F800000).writeFpr 6 0x40000000)
    t.readFpr 2 = Config.fpDivS 0x3F800000 0x40000000 ∧ t.pc = 0x00400004 := ⟨rfl, rfl⟩

theorem test_step_cvt_s_w :
    let t := after ((machine 0x468020A0).writeFpr 4 0x3F800000)
    t.readFpr 2 = Config.fpCvtSW 0x3F800000 ∧ t.pc = 0x00400004 := ⟨rfl, rfl⟩

theorem test_step_cvt_w_s :
    let t := after ((machine 0x460020A4).writeFpr 4 0x3F800000)
    t.readFpr 2 = Config.fpCvtWS 0x3F800000 ∧ t.pc = 0x00400004 := ⟨rfl, rfl⟩

theorem test_step_mfc0 :
    let t := after (withCp0 (machine 0x40026000) 12 0x0000FF11)
    t.readGpr 2 = 0x0000FF11 ∧ t.pc = 0x00400004 := by decide

/-! ### Assembly and the recommended floating-point values -/

theorem test_register_names :
    parseGpr "sp" = some 29 ∧ parseGpr "$31" = some 31 ∧ parseGpr "t7" = some 15 ∧
    parseGpr "x5" = none := by decide

theorem test_assembly_text :
    assemblyText 0x00400010 (.bne 1 0 0xFFFD) = "bne $1, $0, 4194312" ∧
    assemblyText 0 (.lw 2 0xFFFC 1) = "lw $2, -4($1)" ∧
    assemblyText 0 (.cvtSW 2 4) = "cvt.s.w $f2, $f4" := by decide

theorem test_label_fields :
    assembleBranch 0x00400010 0x00400008 = some 0xFFFD ∧
    assembleJump 0x00400000 0x00400020 = some 0x0100008 ∧
    assembleJump 0x00400000 0x10000000 = none ∧ assembleBranch 0x00400000 0x00400006 = none := by decide

theorem test_ieee_arithmetic :
    ieeeAdd 0x3F800000 0x40000000 = some 0x40400000 ∧
    ieeeSub 0x3F800000 0x40000000 = some 0xBF800000 ∧
    ieeeMul 0x40000000 0x40400000 = some 0x40C00000 ∧
    ieeeDiv 0x3F800000 0x40000000 = some 0x3F000000 := by decide

theorem test_ieee_conversions :
    ieeeCvtSW 0x00000003 = some 0x40400000 ∧ ieeeCvtSW 0xFFFFFFFF = some 0xBF800000 ∧
    ieeeCvtSW 0x01000001 = some 0x4B800000 ∧ ieeeCvtWS 0x40400000 = some 0x00000003 ∧
    ieeeCvtWS 0x40200000 = some 0x00000002 ∧ ieeeCvtWS 0x7FC00000 = none := by decide

/-! ### Witnesses: each statement's hypotheses are met, clause by clause -/

/-- Outside a delay slot: the machine has none. -/
theorem notInSlot_of_noSlots {s : State} (h : s.cfg.delaySlots = false) : ¬ s.InSlot :=
  fun hs => absurd hs.1 (by simp [h])

/-- Outside a delay slot: no target is pending. -/
theorem notInSlot_of_noDelay {s : State} (h : s.delay = none) : ¬ s.InSlot := fun hs => hs.2 h

/-- A load whose checks pass may be performed. -/
theorem canLoad {s : State} {w : Width} {a : Word} (h : s.checkLoad w a = none) : s.CanLoad w a :=
  (State.checkLoad_eq_none s w a).1 h

/-- A store whose checks pass may be performed. -/
theorem canStore {s : State} {w : Width} {a : Word} (h : s.checkStore w a = none) : s.CanStore w a :=
  (State.checkStore_eq_none s w a).1 h

/-- A fetch whose checks pass may be performed. -/
theorem canFetch {s : State} (h : s.checkFetch = none) : s.CanFetch := (State.checkFetch_eq_none s).1 h

/-- Some byte of an access is unmapped. -/
theorem someUnmapped {s : State} {w : Width} {a : Word} (h : s.spanUnmapped w a = true) :
    ∃ b ∈ w.span a, s.isMapped b = false := by
  simpa [State.spanUnmapped] using h

/-- Some byte of an access is in `text`. -/
theorem someInText {s : State} {w : Width} {a : Word} (h : s.spanInText w a = true) :
    ∃ b ∈ w.span a, s.inText b = true := by
  simpa [State.spanInText] using h

/-- No row covers a word. -/
theorem noRow {w : Word} (h : (opcodeTable.any fun r => r.covers w) = false) :
    ∀ r ∈ opcodeTable, r.covers w = false := by
  simpa using h

/-- A machine with delay slots, in a delay slot. -/
def inSlot : State := { machineAt .big true 0x00400004 0x08100008 with delay := some 0x00400100 }

theorem witness_inSlot : inSlot.InSlot := ⟨rfl, by decide⟩

theorem witness_DecodeThenEncode : decodeWord 0x00000000 = .ok (.sll 0 0 0) := rfl

theorem witness_DecoderMatchesOpcodeTable :
    decodeWord 0x00221820 = .ok (.add 3 1 2) ∧
    ∃ r ∈ opcodeTable, r.covers 0x00221820 = true :=
  ⟨rfl, ⟨"add", 0xFC0007FF, 0x00000020⟩, by decide, rfl⟩

theorem witness_StepRunsDecodedInstruction :
    (machine 0x00221821).status = .running ∧ (machine 0x00221821).CanFetch ∧
    decode (machine 0x00221821).cfg.endian
      ((Width.word.span (machine 0x00221821).pc).map (machine 0x00221821).byteAt) =
        .ok (.addu 3 1 2, []) := ⟨rfl, canFetch rfl, rfl⟩

theorem witness_MisalignedFetchRaises_fetch :
    ({ State.reset with pc := 0x00400001 } : State).pc.toNat % 4 ≠ 0 ∧
    ({ State.reset with pc := 0xFFFFFFFF } : State).pc.toNat % 4 ≠ 0 ∧
    State.reset.status = .running := by decide

theorem witness_MisalignedFetchRaises_aligned :
    let s := machineAt .big true 0xFFFFFFFC 0x08000000
    s.pc.toNat % 4 = 0 ∧ (∀ d, s.delay = some d → d.toNat % 4 = 0) ∧
    (∀ rs, Instr.j 0 ≠ .jr rs) ∧ (∀ rd rs, Instr.j 0 ≠ .jalr rd rs) ∧
    ∃ t, exec (.j 0) s = .next t := by
  refine ⟨by decide, fun d h => ?_, nofun, nofun, _, rfl⟩
  cases h

theorem witness_MisalignedFetchRaises_pending :
    inSlot.pc.toNat % 4 = 0 ∧ (∀ d, inSlot.delay = some d → d.toNat % 4 = 0) ∧
    ∃ t, exec (.sll 0 0 0) inSlot = .next t :=
  ⟨by decide, fun d h => by cases h; decide, _, rfl⟩

theorem witness_MisalignedFetchRaises_jump : ¬ State.reset.InSlot := notInSlot_of_noSlots rfl

theorem witness_ReservedWordRaises :
    let s := machine 0x00221860
    s.status = .running ∧ s.CanFetch ∧
    ∀ r ∈ opcodeTable, r.covers (s.memRead32 s.pc) = false :=
  ⟨rfl, canFetch rfl, noRow rfl⟩

theorem witness_UnmappedAccessRaises_fetch :
    let s : State := { State.reset with cfg := ⟨.big, false, [⟨0x00400000, 3⟩], []⟩ }
    s.status = .running ∧ s.pc.toNat % 4 = 0 ∧
    ∃ b ∈ Width.word.span s.pc, s.isMapped b = false := ⟨rfl, rfl, someUnmapped rfl⟩

theorem witness_UnmappedAccessRaises_load :
    let s := given (machine 0x8C220008) [(1, 0x10010000)]
    (Instr.lw 2 8 1).loadAccess = some (.word, 1, 8) ∧
    (displaced (s.readGpr 1) 8).toNat % Width.word.bytes = 0 ∧
    ∃ b ∈ Width.word.span (displaced (s.readGpr 1) 8), s.isMapped b = false :=
  ⟨rfl, by decide, someUnmapped (by decide)⟩

theorem witness_UnmappedAccessRaises_store :
    let s := given (machine 0xA0220008) [(1, 0x10010000)]
    (Instr.sb 2 8 1).storeAccess = some (.byte, 1, 8) ∧
    (displaced (s.readGpr 1) 8).toNat % Width.byte.bytes = 0 ∧
    ∃ b ∈ Width.byte.span (displaced (s.readGpr 1) 8), s.isMapped b = false :=
  ⟨rfl, by decide, someUnmapped (by decide)⟩

theorem witness_MisalignedDataAccessRaises :
    (Instr.lw 2 3 0).loadAccess = some (.word, 0, 3) ∧
    (displaced (State.reset.readGpr 0) 3).toNat % Width.word.bytes ≠ 0 ∧
    (Instr.sh 2 0xFFFF 0).storeAccess = some (.half, 0, 0xFFFF) ∧
    (displaced (State.reset.readGpr 0) 0xFFFF).toNat % Width.half.bytes ≠ 0 := by decide

theorem witness_ProgramTextNeverChanges_step :
    (∃ t, step (machine 0x00221821) = .next t) ∧
    (machine 0x00221821).inText 0x00400000 = true ∧
    (machine 0x00221821).inText 0x00400003 = true := ⟨⟨_, rfl⟩, by decide, by decide⟩

theorem witness_ProgramTextNeverChanges_store :
    let s := given (machine 0xA4220002) [(1, 0x00400000)]
    (Instr.sh 2 2 1).storeAccess = some (.half, 1, 2) ∧
    (displaced (s.readGpr 1) 2).toNat % Width.half.bytes = 0 ∧
    ∃ b ∈ Width.half.span (displaced (s.readGpr 1) 2), s.inText b = true :=
  ⟨rfl, by decide, someInText (by decide)⟩

theorem witness_ProgramTextNeverChanges_fetch :
    State.reset.status = .running ∧ State.reset.pc.toNat % 4 = 0 ∧
    State.reset.inText State.reset.pc = false := by decide

theorem witness_RaiseIsPreciseAndTerminal :
    step (machine 0x0000000C) = .next (after (machine 0x0000000C)) ∧
    (after (machine 0x0000000C)).status ≠ .running ∧
    (after (machine 0x0000000C)).status = .fault .systemCall 0x00400000 := ⟨rfl, by decide, by decide⟩

theorem witness_ExceptionsHaveExactlyTheListedCauses_exec : State.reset.status = .running := rfl

theorem witness_ExceptionsHaveExactlyTheListedCauses_misaligned :
    let s : State := { State.reset with pc := 0x00400002 }
    s.status = .running ∧ (∀ i, s.fetch ≠ .ok i) ∧
    step s = .next (s.faulted (.addressError .fetch 0x00400002)) := by
  refine ⟨rfl, fun i h => ?_, rfl⟩
  cases h

theorem witness_ExceptionsHaveExactlyTheListedCauses_outsideText :
    State.reset.status = .running ∧ (∀ i, State.reset.fetch ≠ .ok i) ∧
    step State.reset = .next (State.reset.faulted (.busError .fetch 0x00400000)) := by
  refine ⟨rfl, fun i h => ?_, rfl⟩
  cases h

theorem witness_ExceptionsHaveExactlyTheListedCauses_reserved :
    (machine 0x00000001).status = .running ∧ (∀ i, (machine 0x00000001).fetch ≠ .ok i) ∧
    step (machine 0x00000001) =
      .next ((machine 0x00000001).faulted (.reservedInstruction 0x00000001)) := by
  refine ⟨rfl, fun i h => ?_, rfl⟩
  cases h

theorem witness_InstructionWithoutCauseCompletes :
    State.reset.status = .running ∧ ∀ e, ¬ Cause State.reset (.addu 3 1 2) e := by
  refine ⟨rfl, fun e h => ?_⟩
  rcases e with ⟨k, a⟩ | ⟨k, a⟩ | w | _ | _ | _
  · cases k <;> simp [Cause, Instr.loadAccess, Instr.storeAccess] at h
  · cases k <;> simp [Cause, Instr.loadAccess, Instr.storeAccess] at h
  · simp [Cause, Instr.wellFormed, Instr.isTransfer] at h
  · simp [Cause] at h
  · simp [Cause] at h
  · simp [Cause] at h

theorem witness_RunningMachineAlwaysSteps : State.reset.status = .running := rfl

theorem witness_StepKeepsInvariant :
    (machine 0x00221821).Inv ∧ ∃ t, step (machine 0x00221821) = .next t :=
  ⟨⟨by decide, by decide, fun _ => rfl⟩, _, rfl⟩

theorem witness_StepKeepsInvariant_slots :
    inSlot.Inv ∧ ∃ t, step inSlot = .next t :=
  ⟨⟨by decide, by decide, fun h => by cases h⟩, _, rfl⟩

theorem witness_LaunchStatesMeetInvariant :
    Memory.wf (Launch.default.withProgram 0x00400000 [0x0000000D]).mem = true := by decide

theorem witness_ResetState : (1#5 : Reg) ≠ 0#5 ∧ (31#5 : Reg) ≠ 0#5 := by decide

theorem witness_PlacedWordRunsNext :
    State.reset.status = .running ∧ State.reset.pc.toNat % 4 = 0 ∧
    Memory.wf State.reset.mem = true ∧ decodeWord 0x00221820 = .ok (.add 3 1 2) ∧
    (0x00400003#32 : Word) ∈ Width.word.span State.reset.pc ∧
    (0x00400004#32 : Word) ∉ Width.word.span State.reset.pc :=
  ⟨rfl, by decide, rfl, rfl, by decide, by decide⟩

theorem witness_LaunchParametersAreFixed : ∃ t, step (machine 0x00221821) = .next t := ⟨_, rfl⟩

theorem witness_OnlyNamedDestinationsChange_register :
    (∃ t, exec (.addu 3 1 2) State.reset = .next t) ∧
    (Instr.addu 3 1 2).writesHiLo = false ∧ (Instr.addu 3 1 2).storeAccess = none := ⟨⟨_, rfl⟩, rfl, rfl⟩

theorem witness_OnlyNamedDestinationsChange_store :
    (∃ t, exec (.sw 2 4 0) State.reset = .next t) ∧
    (Instr.sw 2 4 0).storeAccess = some (.word, 0, 4) := ⟨⟨_, rfl⟩, rfl⟩

theorem witness_ZeroRegisterIsHardwired :
    (31#5 : Reg) ≠ 0#5 ∧ (1#5 : Reg) ≠ 31#5 ∧
    State.reset.CanLoad .word (displaced (State.reset.readGpr 0) 0) ∧
    (let s := given State.reset [(1, 0x7FFFFFFF), (2, 1)]
     ¬ Fits32 ((s.readGpr 1).toInt + (s.readGpr 2).toInt)) :=
  ⟨by decide, by decide, canLoad rfl, by unfold Fits32; decide⟩

theorem witness_NextPc :
    let s := machineAt .little false 0xFFFFFFFC 0x00221821
    s.status = .running ∧ s.cfg.delaySlots = false ∧ (Instr.addu 3 1 2).isTransfer = false ∧
    ∃ t, exec (.addu 3 1 2) s = .next t ∧ t.status = .running := ⟨rfl, rfl, rfl, _, rfl, rfl⟩

theorem witness_AddressArithmeticWraps :
    (0xFFFFFFFF#32).toNat % Width.byte.bytes = 0 ∧ (0xFFFFFFFE#32).toNat % Width.half.bytes = 0 ∧
    (0xFFFFFFFC#32).toNat % Width.word.bytes = 0 := by decide

theorem witness_OverflowDetectingArithmetic_add :
    let s := given State.reset [(1, 0x7FFFFFFE), (2, 1), (3, 2)]
    Fits32 ((s.readGpr 1).toInt + (s.readGpr 2).toInt) ∧
    ¬ Fits32 ((s.readGpr 1).toInt + (s.readGpr 3).toInt) := by unfold Fits32; decide

theorem witness_OverflowDetectingArithmetic_sub :
    let s := given State.reset [(1, 0x80000001), (2, 1), (3, 2)]
    Fits32 ((s.readGpr 1).toInt - (s.readGpr 2).toInt) ∧
    ¬ Fits32 ((s.readGpr 1).toInt - (s.readGpr 3).toInt) := by unfold Fits32; decide

theorem witness_OverflowDetectingArithmetic_addi :
    let s := given State.reset [(1, 0x80008000), (2, 0x80007FFF)]
    Fits32 ((s.readGpr 1).toInt + (0x8000 : Imm).toInt) ∧
    ¬ Fits32 ((s.readGpr 2).toInt + (0x8000 : Imm).toInt) := by unfold Fits32; decide

theorem witness_SignedDivision :
    let s := given State.reset [(1, 0x80000000), (2, 0xFFFFFFFF), (3, 0xFFFFFFFE)]
    (s.readGpr 3 ≠ 0#32 ∧ ¬ (s.readGpr 1 = 0x80000000#32 ∧ s.readGpr 3 = 0xFFFFFFFF#32)) ∧
    (s.readGpr 1 = 0x80000000#32 ∧ s.readGpr 2 = 0xFFFFFFFF#32) ∧ s.readGpr 0 = 0#32 := by decide

theorem witness_UnsignedDivision :
    let s := given State.reset [(2, 1)]
    s.readGpr 2 ≠ 0#32 ∧ s.readGpr 0 = 0#32 := by decide

theorem witness_RegisterJumps :
    ¬ State.reset.InSlot ∧ State.reset.cfg.delaySlots = false ∧
    (let s := machineAt .little true 0x00400000 0x0040F809
     ¬ s.InSlot ∧ s.cfg.delaySlots = true) :=
  ⟨notInSlot_of_noSlots rfl, rfl, notInSlot_of_noDelay rfl, rfl⟩

theorem witness_RegisterJumps_misaligned :
    let s := given State.reset [(1, 0x00400101)]
    s.status = .running ∧ s.cfg.delaySlots = false ∧ (s.readGpr 1).toNat % 4 ≠ 0 := by decide

theorem witness_EqualityBranches :
    let s := given State.reset [(1, 0x80000000), (2, 0x80000000), (3, 0x80000001)]
    s.pc.toNat % 4 = 0 ∧ ¬ s.InSlot ∧ s.readGpr 1 = s.readGpr 2 ∧ s.readGpr 1 ≠ s.readGpr 3 :=
  ⟨by decide, notInSlot_of_noSlots rfl, by decide, by decide⟩

theorem witness_SignBranches :
    let s := given State.reset [(1, 0xFFFFFFFF), (2, 1)]
    ¬ s.InSlot ∧ (s.readGpr 0).toInt ≤ 0 ∧ ¬ (s.readGpr 2).toInt ≤ 0 ∧ (s.readGpr 2).toInt > 0 ∧
    ¬ (s.readGpr 0).toInt > 0 ∧ (s.readGpr 1).toInt < 0 ∧ ¬ (s.readGpr 0).toInt < 0 ∧
    (s.readGpr 0).toInt ≥ 0 ∧ ¬ (s.readGpr 1).toInt ≥ 0 :=
  ⟨notInSlot_of_noSlots rfl, by decide, by decide, by decide, by decide, by decide, by decide, by decide,
    by decide⟩

theorem witness_RegionJumps :
    ¬ State.reset.InSlot ∧ State.reset.cfg.delaySlots = false ∧
    (let s := machineAt .little true 0x0FFFFFFC 0x0C100040
     ¬ s.InSlot ∧ s.cfg.delaySlots = true) :=
  ⟨notInSlot_of_noSlots rfl, rfl, notInSlot_of_noDelay rfl, rfl⟩

theorem witness_TransferInDelaySlotRaises :
    (Instr.j 0x0100008).isTransfer = true ∧ inSlot.InSlot ∧ ¬ State.reset.InSlot :=
  ⟨rfl, witness_inSlot, notInSlot_of_noSlots rfl⟩

theorem witness_DelaySlotRunsBeforeTarget :
    let s := machineAt .big true 0x00400000 0x08100008
    ∃ t u g, s.cfg.delaySlots = true ∧ ¬ s.InSlot ∧ s.status = .running ∧
      (Instr.j 0x0100008).isTransfer = true ∧ exec (.j 0x0100008) s = .next t ∧
      t.delay = some g ∧ (Instr.addu 3 1 2).isTransfer = false ∧
      exec (.addu 3 1 2) t = .next u ∧ u.status = .running :=
  ⟨_, _, _, rfl, notInSlot_of_noDelay rfl, rfl, rfl, rfl, rfl, rfl, rfl, rfl⟩

theorem witness_ByteLoads :
    let s := given (machine 0x80220007) [(1, 0x10010000)]
    s.isMapped (displaced (s.readGpr 1) 7) = true ∧
    s.isMapped (displaced (s.readGpr 1) 8) = false := by decide

theorem witness_HalfwordLoads :
    let s := given (machine 0x84220006) [(1, 0x10010000)]
    s.CanLoad .half (displaced (s.readGpr 1) 6) ∧ s.cfg.endian = .little ∧
    (machineAt .big false 0x00400000 0x84220006).cfg.endian = .big :=
  ⟨canLoad (by decide), rfl, rfl⟩

theorem witness_HalfwordLoads_big :
    let s := given (machineAt .big false 0x00400000 0x84220006) [(1, 0x10010000)]
    s.CanLoad .half (displaced (s.readGpr 1) 6) ∧ s.cfg.endian = .big :=
  ⟨canLoad (by decide), rfl⟩

theorem witness_HalfwordLoads_raises :
    let s := given (machine 0x84220006) [(1, 0x10010000)]
    (displaced (s.readGpr 1) 1).toNat % Width.half.bytes ≠ 0 ∧
    (displaced (s.readGpr 1) 8).toNat % Width.half.bytes = 0 ∧
    ∃ b ∈ Width.half.span (displaced (s.readGpr 1) 8), s.isMapped b = false :=
  ⟨by decide, by decide, someUnmapped (by decide)⟩

theorem witness_WordLoads :
    let s := given (machine 0x8C220004) [(1, 0x10010000)]
    let b := given (machineAt .big false 0x00400000 0x8C220004) [(1, 0x10010000)]
    s.CanLoad .word (displaced (s.readGpr 1) 4) ∧ s.cfg.endian = .little ∧
    b.CanLoad .word (displaced (b.readGpr 1) 4) ∧ b.cfg.endian = .big :=
  ⟨canLoad (by decide), rfl, canLoad (by decide), rfl⟩

theorem witness_WordLoads_raises :
    let s := given (machine 0x8C220004) [(1, 0x10010000)]
    (displaced (s.readGpr 1) 2).toNat % Width.word.bytes ≠ 0 ∧
    (displaced (s.readGpr 1) 8).toNat % Width.word.bytes = 0 ∧
    ∃ b ∈ Width.word.span (displaced (s.readGpr 1) 8), s.isMapped b = false :=
  ⟨by decide, by decide, someUnmapped (by decide)⟩

theorem witness_ByteAndHalfwordStores :
    let s := given (machine 0xA0220007) [(1, 0x10010000)]
    let b := given (machineAt .big false 0x00400000 0xA4220006) [(1, 0x10010000)]
    Memory.wf s.mem = true ∧ s.CanStore .byte (displaced (s.readGpr 1) 7) ∧
    s.CanStore .half (displaced (s.readGpr 1) 6) ∧ s.cfg.endian = .little ∧
    Memory.wf b.mem = true ∧ b.CanStore .half (displaced (b.readGpr 1) 6) ∧ b.cfg.endian = .big :=
  ⟨by decide, canStore (by decide), canStore (by decide), rfl, by decide, canStore (by decide), rfl⟩

theorem witness_ByteAndHalfwordStores_raises :
    let s := given (machine 0xA0220007) [(1, 0x10010000), (3, 0x00400000)]
    (displaced (s.readGpr 1) 1).toNat % Width.half.bytes ≠ 0 ∧
    (∃ b ∈ Width.byte.span (displaced (s.readGpr 1) 8), s.isMapped b = false ∨ s.inText b = true) ∧
    (displaced (s.readGpr 3) 2).toNat % Width.half.bytes = 0 ∧
    (∃ b ∈ Width.half.span (displaced (s.readGpr 3) 2), s.isMapped b = false ∨ s.inText b = true) :=
  ⟨by decide, ⟨0x10010008, by decide, .inl (by decide)⟩, by decide,
    ⟨0x00400002, by decide, .inr (by decide)⟩⟩

theorem witness_WordStores :
    let s := given (machine 0xAC220004) [(1, 0x10010000)]
    let b := given (machineAt .big false 0x00400000 0xAC220004) [(1, 0x10010000)]
    Memory.wf s.mem = true ∧ s.CanStore .word (displaced (s.readGpr 1) 4) ∧ s.cfg.endian = .little ∧
    Memory.wf b.mem = true ∧ b.CanStore .word (displaced (b.readGpr 1) 4) ∧ b.cfg.endian = .big :=
  ⟨by decide, canStore (by decide), rfl, by decide, canStore (by decide), rfl⟩

theorem witness_WordStores_raises :
    let s := given (machine 0xAC220004) [(1, 0x10010000), (3, 0x00400000)]
    (displaced (s.readGpr 1) 1).toNat % Width.word.bytes ≠ 0 ∧
    (displaced (s.readGpr 3) 0).toNat % Width.word.bytes = 0 ∧
    ∃ b ∈ Width.word.span (displaced (s.readGpr 3) 0), s.isMapped b = false ∨ s.inText b = true :=
  ⟨by decide, by decide, ⟨0x00400000, by decide, .inr (by decide)⟩⟩

theorem witness_MixedWidthReads :
    let s := machineAt .little false 0x00400000 0x00221821
    let b := machineAt .big false 0x00400000 0x00221821
    Memory.wf s.mem = true ∧ s.cfg.endian = .little ∧ Memory.wf b.mem = true ∧ b.cfg.endian = .big ∧
    (0xFFFFFFFC#32).toNat % 4 = 0 := ⟨by decide, rfl, by decide, rfl, by decide⟩

theorem witness_StoreThenLoad :
    let s := given (machine 0xAC220004) [(1, 0x10010000)]
    Memory.wf s.mem = true ∧ s.CanStore .word (displaced (s.readGpr 1) 4) ∧
    s.CanStore .half (displaced (s.readGpr 1) 6) ∧ s.CanStore .byte (displaced (s.readGpr 1) 7) :=
  ⟨by decide, canStore (by decide), canStore (by decide), canStore (by decide)⟩

theorem witness_CoprocessorMoves : ∃ t, step (machine 0x40026000) = .next t := ⟨_, rfl⟩

theorem witness_FpArithmetic :
    (30#5 : FReg).toNat % 2 = 0 ∧ (0#5 : FReg).toNat % 2 = 0 ∧ (31#5 : FReg).toNat % 2 = 1 ∧
    (1#5 : FReg).toNat % 2 = 1 := by decide

theorem witness_FpMoveAndConvert :
    (2#5 : FReg).toNat % 2 = 0 ∧ (30#5 : FReg).toNat % 2 = 0 ∧ (3#5 : FReg).toNat % 2 = 1 := by decide

theorem witness_ResultsVisibleToNextInstruction_loads :
    let s := given (machine 0x8C220004) [(1, 0x10010000)]
    (2#5 : Reg) ≠ 0#5 ∧ s.CanLoad .byte (displaced (s.readGpr 1) 7) ∧
    s.CanLoad .half (displaced (s.readGpr 1) 6) ∧ s.CanLoad .word (displaced (s.readGpr 1) 4) :=
  ⟨by decide, canLoad (by decide), canLoad (by decide), canLoad (by decide)⟩

theorem witness_ResultsVisibleToNextInstruction_division :
    let s := given State.reset [(1, 0x80000000), (2, 0xFFFFFFFF), (3, 0xFFFFFFFE)]
    (s.readGpr 3 ≠ 0#32 ∧ ¬ (s.readGpr 1 = 0x80000000#32 ∧ s.readGpr 3 = 0xFFFFFFFF#32)) ∧
    s.readGpr 1 = 0x80000000#32 ∧ s.readGpr 2 = 0xFFFFFFFF#32 := by decide

theorem witness_CallThenReturn : State.reset.cfg.delaySlots = false := rfl

theorem witness_BranchLabelRoundTrip :
    assembleBranch 0x00400000 0x00420000 = some 0x7FFF ∧
    assembleBranch 0x00400000 0x003E0004 = some 0x8000 ∧
    assembleBranch 0x00400000 0x00420004 = none := by decide

theorem witness_JumpLabelRoundTrip :
    assembleJump 0x0FFFFFFC 0x1FFFFFFC = some 0x3FFFFFF ∧
    assembleJump 0x0FFFFFFC 0x00000000 = none := by decide

end Sys2Proof.Tests
end

section
/-! PROOFS. The decoder on the bytes at an address, and a step whose fetch succeeds. -/

namespace Sys2Proof.Machine

/-- The decoder takes the four bytes at an address for the word the machine reads there
(spec/20_memory.md R55, R56). -/
theorem decode_span_word_iff (s : State) (a : Word) (i : Instr) :
    decode s.cfg.endian ((Width.word.span a).map s.byteAt) = .ok (i, []) ↔
      decodeWord (s.memRead32 a) = .ok i := by
  rw [Width.span_word, State.memRead32]
  simp only [List.map, decode]
  generalize wordOfBytes _ _ _ _ _ = w
  cases decodeWord w <;> simp

/-- A fetch whose checks pass answers the instruction the word at `pc` decodes to. -/
theorem State.fetch_of_decodeWord {s : State} {i : Instr} (h : s.CanFetch)
    (hd : decodeWord (s.memRead32 s.pc) = .ok i) : s.fetch = .ok i := by
  rw [State.fetch_of_canFetch h, hd]

/-- A running machine whose fetch succeeds executes the instruction fetched. -/
theorem step_of_fetch_ok {s : State} {i : Instr} (h : s.status = .running) (hf : s.fetch = .ok i) :
    step s = exec i s := by
  rw [step_of_running h, hf]

/-- Settles O5: the bytes at `pc` decode as the word there, which is what the fetch decodes. -/
theorem stepRunsDecodedInstruction : Obligations.StepRunsDecodedInstruction := by
  intro s i hrun hcan hbytes
  have hword : decodeWord (s.memRead32 s.pc) = .ok i := (decode_span_word_iff s s.pc i).1 hbytes
  exact step_of_fetch_ok hrun (State.fetch_of_decodeWord hcan hword)

end Sys2Proof.Machine
end

section
/-! PROOFS. The state (spec/10_state.md): what every step keeps, what an instruction leaves
unchanged, `$0`, and the next pc. Each is read off the effects an instruction can have (`ExecEffect`). -/

namespace Sys2Proof.Machine

section Rules

variable {i : Instr} {s t : State}

/-! ### The invariant, by update -/

/-- Writing a general register keeps the invariant: the storage of `$0` is never written (R21). -/
theorem State.Inv.writeGpr (h : s.Inv) (rd : Reg) (v : Word) : (s.writeGpr rd v).Inv :=
  ⟨h.memCanonical, (s.writeGpr_zeroSlot rd v).trans h.zeroSlot, h.noPending⟩

/-- An update that leaves `$0`, the pending target and the parameters alone keeps the invariant if it
keeps memory canonical. -/
theorem State.Inv.of_wf (h : s.Inv) (hm : Memory.wf t.mem = true) (hg : t.gpr = s.gpr)
    (hd : t.delay = s.delay) (hc : t.cfg = s.cfg) : t.Inv :=
  ⟨hm, hg ▸ h.zeroSlot, by rw [hc, hd]; exact h.noPending⟩

/-- The end of an instruction keeps the invariant: no target stays pending (R202). -/
theorem State.Inv.advance (h : s.Inv) : s.advance.Inv :=
  ⟨h.memCanonical, h.zeroSlot, fun _ => rfl⟩

/-- A transfer keeps the invariant: it leaves a pending target only with delay slots (R202). -/
theorem State.Inv.transferTo (h : s.Inv) (g : Word) : (s.transferTo g).Inv :=
  ⟨h.memCanonical, h.zeroSlot, fun hslots => by simpa using hslots⟩

/-- Every effect of an instruction keeps the invariant. -/
theorem ExecEffect.inv (he : ExecEffect i s t) (h : s.Inv) : t.Inv := by
  cases he with
  | raised e => exact h.of_wf h.memCanonical rfl rfl rfl
  | wroteGpr rd v => exact (h.writeGpr rd v).advance
  | wroteFpr fd v => exact State.Inv.advance (h.of_wf h.memCanonical rfl rfl rfl)
  | wroteHiLo hi lo n => exact State.Inv.advance (h.of_wf h.memCanonical rfl rfl rfl)
  | stored8 rs imm v =>
    exact State.Inv.advance
      (h.of_wf (State.memWrite8_wf _ v h.memCanonical) (by simp) (by simp) (by simp))
  | stored16 rs imm v =>
    exact State.Inv.advance
      (h.of_wf (State.memWrite16_wf _ v h.memCanonical) (by simp) (by simp) (by simp))
  | stored32 rs imm v =>
    exact State.Inv.advance
      (h.of_wf (State.memWrite32_wf _ v h.memCanonical) (by simp) (by simp) (by simp))
  | movedOn => exact h.advance
  | jumped g => exact h.transferTo g
  | linked rd v g => exact (h.writeGpr rd v).transferTo g

/-- A launch with canonical memory starts in a state that meets the invariant. -/
theorem State.inv_ofLaunch (l : Launch) (h : Memory.wf l.mem = true) : (State.ofLaunch l).Inv :=
  ⟨h, Vector.getElem_set_self _, fun _ => rfl⟩

/-! ### What an instruction leaves unchanged -/

/-- Only the destination among the general registers changes. -/
theorem ExecEffect.sameGprs (he : ExecEffect i s t) : SameGprs i.gprDest.toList s t := by
  cases he with
  | wroteGpr rd v _ hd =>
    obtain ⟨⟨-, hg, -⟩, -⟩ := writesGpr_advance s rd v
    rw [hd]; exact hg
  | linked rd v g _ hd hs =>
    obtain ⟨⟨-, hg, -⟩, -⟩ := writesGpr_transferTo s rd v g hs
    rw [hd]; exact hg
  | stored8 | stored16 | stored32 => intro r _; simp
  | raised | wroteFpr | wroteHiLo | movedOn | jumped => intro r _; rfl

/-- Only the destination among the floating-point registers changes. -/
theorem ExecEffect.sameFprs (he : ExecEffect i s t) : SameFprs i.fprDest.toList s t := by
  cases he with
  | wroteFpr fd v _ hd =>
    obtain ⟨⟨-, -, hf, -⟩, -⟩ := writesFpr_advance s fd v
    rw [hd]; exact hf
  | stored8 | stored16 | stored32 => intro f _; simp
  | raised | wroteGpr | wroteHiLo | movedOn | jumped | linked => intro f _; rfl

/-- HI and LO change only by an instruction that writes them (R27). -/
theorem ExecEffect.sameHiLo (he : ExecEffect i s t) (hw : i.writesHiLo = false) : SameHiLo s t := by
  cases he with
  | wroteHiLo _ _ _ _ hw' => simp [hw] at hw'
  | stored8 | stored16 | stored32 => constructor <;> simp
  | raised | wroteGpr | wroteFpr | movedOn | jumped | linked => exact ⟨rfl, rfl⟩

/-- Only the bytes of a store's access change (spec/20_memory.md R57). -/
theorem ExecEffect.sameMemory_of_store (he : ExecEffect i s t) {w : Width} {rs : Reg} {imm : Imm}
    (ha : i.storeAccess = some (w, rs, imm)) :
    SameMemory (w.span (displaced (s.readGpr rs) imm)) s t := by
  cases he with
  | stored8 _ _ v _ ha' =>
    cases ha.symm.trans ha'
    exact State.memWrite8_sameMemory s _ v
  | stored16 _ _ v _ ha' =>
    cases ha.symm.trans ha'
    exact State.memWrite16_sameMemory s _ v
  | stored32 _ _ v _ ha' =>
    cases ha.symm.trans ha'
    exact State.memWrite32_sameMemory s _ v
  | raised | wroteGpr | wroteFpr | wroteHiLo | movedOn | jumped | linked => intro a _; rfl

/-- An instruction that is no store changes no byte (spec/20_memory.md R53). -/
theorem ExecEffect.sameMemory_of_noStore (he : ExecEffect i s t) (hn : i.storeAccess = none) :
    SameMemory [] s t := by
  cases he with
  | stored8 _ _ _ _ ha | stored16 _ _ _ _ ha | stored32 _ _ _ _ ha => simp [hn] at ha
  | raised | wroteGpr | wroteFpr | wroteHiLo | movedOn | jumped | linked => intro a _; rfl

/-- No instruction changes coprocessor 0 or a launch parameter (spec/10_state.md R31, spec/20_memory.md
R54). -/
theorem ExecEffect.sameCp0_cfg (he : ExecEffect i s t) : t.cp0 = s.cp0 ∧ t.cfg = s.cfg := by
  cases he with
  | stored8 | stored16 | stored32 => constructor <;> simp
  | raised | wroteGpr | wroteFpr | wroteHiLo | movedOn | jumped | linked => exact ⟨rfl, rfl⟩

/-! ### `$0` -/

/-- A load whose checks fail raises what they answer (spec/46_itype_loadstore.md R216). -/
theorem loadRaises_of_loadAccess {w : Width} {rs : Reg} {imm : Imm} (s : State)
    (h : i.loadAccess = some (w, rs, imm)) : LoadRaises i s w (displaced (s.readGpr rs) imm) := by
  obtain ⟨f, hf⟩ := exec_eq_load s h
  constructor
  · intro hmis
    exact hf.trans (State.load_raises f (State.checkLoad_misaligned s w _ hmis))
  · intro hal hunmapped
    exact hf.trans (State.load_raises f (State.checkLoad_unmapped s w _ hal hunmapped))

/-- `lw` is the shared load of a word (spec/46_itype_loadstore.md R221). -/
theorem exec_lw (s : State) (rt : Reg) (imm : Imm) (rs : Reg) :
    exec (.lw rt imm rs) s = s.load .word (displaced (s.readGpr rs) imm) fun u =>
      u.writeGpr rt (u.memRead32 (displaced (s.readGpr rs) imm)) := rfl

/-- `add` is the shared checked instruction (spec/40_rtype_alu.md R120). -/
theorem exec_add (s : State) (rd rs rt : Reg) :
    exec (.add rd rs rt) s =
      s.checked (addOverflows (s.readGpr rs) (s.readGpr rt)) .integerOverflow fun u =>
        u.writeGpr rd (s.readGpr rs + s.readGpr rt) := rfl

/-- A word load into `$0` that may be performed does nothing but move on (R21). -/
theorem fallsThrough_lw_zero {imm : Imm} {rs : Reg}
    (h : s.CanLoad .word (displaced (s.readGpr rs) imm)) : FallsThrough (.lw 0#5 imm rs) s :=
  ⟨s.advance, (exec_lw s _ _ _).trans (State.load_completes _ h), writesNothing_advance s⟩

/-- `add` whose exact sum does not fit in 32 bits raises, whatever its destination (R120, R131). -/
theorem raises_add_of_not_fits (s : State) (rd rs rt : Reg)
    (h : ¬ Fits32 ((s.readGpr rs).toInt + (s.readGpr rt).toInt)) :
    Raises (.add rd rs rt) s .integerOverflow :=
  (exec_add s rd rs rt).trans (State.checked_raises _ _ ((addOverflows_iff _ _).2 h))

/-- A register other than `$0` reads what was written to it (R21). -/
theorem State.readGpr_writeGpr_same (s : State) {r : Reg} (v : Word) (hr : r ≠ 0#5) :
    (s.writeGpr r v).readGpr r = v := by
  simp [State.readGpr_writeGpr, hr]

/-- Writing one register leaves every other one alone (R21). -/
theorem State.readGpr_writeGpr_other (s : State) {r q : Reg} (v : Word) (hq : q ≠ r) :
    (s.writeGpr r v).readGpr q = s.readGpr q := by
  by_cases h0 : q = 0#5
  · simp [h0]
  · simp [State.readGpr_writeGpr, h0, hq]

end Rules

/-! ### The obligations -/

/-- Settles O15: a step is one of the effects, and each of them keeps the invariant. -/
theorem stepKeepsInvariant : Obligations.StepKeepsInvariant := by
  intro s t hinv hstep
  obtain ⟨-, i, he⟩ := step_effect hstep
  exact he.inv hinv

/-- Settles O16: the default launch lists no memory, which is canonical. -/
theorem launchStatesMeetInvariant : Obligations.LaunchStatesMeetInvariant :=
  ⟨State.inv_ofLaunch, State.inv_ofLaunch Launch.default rfl⟩

/-- Settles O20: each clause is a frame of the effects an instruction can have. -/
theorem onlyNamedDestinationsChange : Obligations.OnlyNamedDestinationsChange := by
  intro i s t h
  have he := exec_effect h
  obtain ⟨hcp0, hcfg⟩ := he.sameCp0_cfg
  exact ⟨he.sameGprs, he.sameFprs, he.sameHiLo, he.sameMemory_of_noStore,
    fun _ _ _ => he.sameMemory_of_store, State.readCp0_congr hcp0, hcfg⟩

/-- Settles O22: such an instruction, unless it raises, moves on, which is `pc + 4` without delay slots. -/
theorem nextPc : Obligations.NextPc := by
  intro i s t _ hslots hi hexec hrun
  obtain ⟨e, rfl⟩ | ⟨⟨hdelay, hpc⟩, -, -⟩ := exec_movesOn hi hexec
  · cases hrun
  · have hpc4 : t.pc = s.pc + 4#32 := by simpa [hslots] using hpc
    exact ⟨by rw [hpc4, BitVec.toNat_add]; rfl, hdelay⟩

/-- Settles O21: the register file's read-after-write, then the two instructions whose effect `$0`
discards but whose checks it keeps. -/
theorem zeroRegisterIsHardwired : Obligations.ZeroRegisterIsHardwired :=
  ⟨fun s v => ⟨s.readGpr_zero, s.writeGpr_zero v⟩,
    fun s _ _ v hr => ⟨s.readGpr_writeGpr_same v hr, s.readGpr_writeGpr_other v⟩,
    fun s _ _ => ⟨loadRaises_of_loadAccess s rfl, fallsThrough_lw_zero⟩,
    fun s => raises_add_of_not_fits s 0#5⟩

end Sys2Proof.Machine
end

section
/-! PROOFS. Memory access (spec/20_memory.md): which accesses raise, that program text and the launch
parameters never change, where `pc` can become misaligned, and reads of mixed widths. -/

namespace Sys2Proof.Machine

section Rules

variable {i : Instr} {s t : State}

/-! ### Refused accesses -/

/-- A store whose checks fail raises what they answer (spec/46_itype_loadstore.md R216). -/
theorem storeRaises_of_storeAccess {w : Width} {rs : Reg} {imm : Imm} (s : State)
    (h : i.storeAccess = some (w, rs, imm)) : StoreRaises i s w (displaced (s.readGpr rs) imm) := by
  obtain ⟨f, hf⟩ := exec_eq_store s h
  constructor
  · intro hmis
    exact hf.trans (State.store_raises f (State.checkStore_misaligned s w _ hmis))
  · intro hal hrefused
    exact hf.trans (State.store_raises f (State.checkStore_refused s w _ hal hrefused))

/-- A running machine whose fetch a check stops takes that exception (spec/00_scope.md R14). -/
theorem step_of_checkFetch {e : Exception} (hrun : s.status = .running) (h : s.checkFetch = some e) :
    step s = .next (s.faulted e) := by
  rw [step_of_running hrun, State.fetch_of_check h]

/-! ### Program text -/

/-- No byte of a store that may be performed lies in `text` (R70). -/
theorem State.CanStore.not_mem_span {w : Width} {a b : Word} (h : s.CanStore w a)
    (hb : s.inText b = true) : b ∉ w.span a := by
  intro hmem
  have hout : s.inText b = false := (h.2 b hmem).2
  simp [hb] at hout

/-- No effect of an instruction changes a byte of the program (R70). -/
theorem ExecEffect.byteAt_of_inText (he : ExecEffect i s t) {a : Word} (ha : s.inText a = true) :
    t.byteAt a = s.byteAt a := by
  cases he with
  | stored8 _ _ v _ _ h => exact State.memWrite8_sameMemory s _ v a (h.not_mem_span ha)
  | stored16 _ _ v _ _ h => exact State.memWrite16_sameMemory s _ v a (h.not_mem_span ha)
  | stored32 _ _ v _ _ h => exact State.memWrite32_sameMemory s _ v a (h.not_mem_span ha)
  | raised | wroteGpr | wroteFpr | wroteHiLo | movedOn | jumped | linked => rfl

/-! ### Alignment of `pc` (R60) -/

/-- `pc` and a pending target are multiples of 4. -/
def State.PcAligned (s : State) : Prop :=
  s.pc.toNat % 4 = 0 ∧ ∀ d, s.delay = some d → d.toNat % 4 = 0

/-- `pc + 4` of an aligned `pc` is aligned, also past the top of the address space. -/
theorem toNat_add_four_mod (pc : Word) (h : pc.toNat % 4 = 0) : (pc + 4#32).toNat % 4 = 0 := by
  rw [BitVec.toNat_add]
  norm_num
  omega

/-- A branch at an aligned `pc` has an aligned target (spec/45_itype_branch.md R200). -/
theorem branchTarget_toNat_mod (pc : Word) (imm : Imm) (h : pc.toNat % 4 = 0) :
    (branchTarget pc imm).toNat % 4 = 0 := by
  have hpc4 := toNat_add_four_mod pc h
  rw [branchTarget, BitVec.toNat_add, BitVec.toNat_shiftLeft, Nat.shiftLeft_eq]
  omega

/-- A jump's target ends in `00` wherever the jump stands (spec/47_jtype.md R240). -/
theorem jumpTarget_toNat_mod (pc : Word) (target : Target) : (jumpTarget pc target).toNat % 4 = 0 := by
  rw [jumpTarget, BitVec.toNat_append, Nat.shiftLeft_eq]
  simp

/-- The next `pc` is aligned. -/
theorem State.PcAligned.nextPc (h : s.PcAligned) : s.nextPc.toNat % 4 = 0 := by
  obtain ⟨hpc, hdelay⟩ := h
  have hpc4 := toNat_add_four_mod s.pc hpc
  rw [State.nextPc_eq]
  split
  · cases hd : s.delay with
    | none => exact hpc4
    | some d => exact hdelay d hd
  · exact hpc4

/-- Moving on keeps `pc` aligned. -/
theorem State.PcAligned.of_movesOn (h : s.PcAligned) (hm : MovesOn s t) : t.PcAligned := by
  obtain ⟨hdelay, hpc⟩ := hm
  rw [← State.nextPc_eq] at hpc
  exact ⟨hpc ▸ h.nextPc, by simp [hdelay]⟩

/-- A transfer to an aligned target keeps `pc` aligned, at once or after the delay slot (R202). -/
theorem State.PcAligned.transferTo (h : s.PcAligned) {g : Word} (hg : g.toNat % 4 = 0) :
    (s.transferTo g).PcAligned := by
  cases hslots : s.cfg.delaySlots
  · simpa [State.PcAligned, hslots] using hg
  · simpa [State.PcAligned, hslots] using And.intro h.nextPc hg

/-- `j` is the shared transfer to its target (spec/47_jtype.md R241). -/
theorem exec_j (s : State) (target : Target) :
    exec (.j target) s = s.control (encode (.j target)) fun u =>
      u.transferTo (jumpTarget u.pc target) := rfl

/-- `jal` is the shared transfer to its target, with the link in `x[31]` (R242). -/
theorem exec_jal (s : State) (target : Target) :
    exec (.jal target) s = s.control (encode (.jal target)) fun u =>
      (u.writeGpr 31#5 u.linkValue).transferTo (jumpTarget u.pc target) := rfl

/-- `jr` is the shared transfer to the register's value (spec/43_rtype_jump_system.md R170). -/
theorem exec_jr (s : State) (rs : Reg) :
    exec (.jr rs) s = s.control (encode (.jr rs)) fun u => u.transferTo (u.readGpr rs) := rfl

/-- `jalr` is the shared transfer to the register's value, with a link (R171). -/
theorem exec_jalr (s : State) (rd rs : Reg) :
    exec (.jalr rd rs) s = s.control (encode (.jalr rd rs)) fun u =>
      (u.writeGpr rd u.linkValue).transferTo (u.readGpr rs) := rfl

/-- A branch or jump other than `jr` and `jalr` keeps `pc` aligned (R60). -/
theorem exec_eq_control_pcAligned (s : State) (hi : i.isTransfer = true) (hjr : ∀ rs, i ≠ .jr rs)
    (hjalr : ∀ rd rs, i ≠ .jalr rd rs) :
    ∃ f, exec i s = s.control (encode i) f ∧ (s.PcAligned → (f s).PcAligned) := by
  cases i <;> simp only [Instr.isTransfer, Bool.false_eq_true] at hi
  case bltz | bgez | beq | bne | blez | bgtz =>
    dsimp only [exec, execBltz, execBgez, execBeq, execBne, execBlez, execBgtz, State.branch]
    refine ⟨_, rfl, fun h => ?_⟩
    split
    · exact h.transferTo (branchTarget_toNat_mod s.pc _ h.1)
    · exact h.of_movesOn (writesNothing_advance s).2
  case j target =>
    exact ⟨_, exec_j s target, fun h => h.transferTo (jumpTarget_toNat_mod s.pc target)⟩
  case jal target =>
    refine ⟨_, exec_jal s target, fun h => ?_⟩
    have hlinked : (s.writeGpr 31#5 s.linkValue).PcAligned := h
    exact hlinked.transferTo (jumpTarget_toNat_mod s.pc target)
  case jr rs => exact absurd rfl (hjr rs)
  case jalr rd rs => exact absurd rfl (hjalr rd rs)

/-- Every instruction but `jr` and `jalr` keeps `pc` aligned (R60). -/
theorem exec_pcAligned (h : s.PcAligned) (hjr : ∀ rs, i ≠ .jr rs)
    (hjalr : ∀ rd rs, i ≠ .jalr rd rs) (hexec : exec i s = .next t) : t.PcAligned := by
  cases hi : i.isTransfer with
  | false =>
    obtain ⟨e, rfl⟩ | ⟨hm, -, -⟩ := exec_movesOn hi hexec
    · exact h
    · exact h.of_movesOn hm
  | true =>
    obtain ⟨f, hf, hkeeps⟩ := exec_eq_control_pcAligned s hi hjr hjalr
    rw [hf] at hexec
    by_cases hs : s.InSlot
    · rw [State.control_raises _ _ hs] at hexec
      cases hexec
      exact h
    · rw [State.control_completes _ _ hs] at hexec
      cases hexec
      exact hkeeps h

/-- `jr` outside a delay slot completes, whatever the register holds (R170). -/
theorem jumps_jr (rs : Reg) (hs : ¬ s.InSlot) : Jumps (.jr rs) s (s.readGpr rs) :=
  ⟨_, (exec_jr s rs).trans (State.control_completes _ _ hs), writesNothing_transferTo s _ hs⟩

/-- `jalr` outside a delay slot completes, whatever the register holds (R171). -/
theorem linksAndJumps_jalr (rd rs : Reg) (hs : ¬ s.InSlot) :
    LinksAndJumps (.jalr rd rs) s rd s.linkValue (s.readGpr rs) :=
  ⟨_, (exec_jalr s rd rs).trans (State.control_completes _ _ hs),
    writesGpr_transferTo s rd _ _ hs⟩

/-! ### Addresses (R61) -/

/-- The effective address, modulo 2^32 (spec/46_itype_loadstore.md R215). -/
theorem displaced_toNat (base : Word) (imm : Imm) :
    ((displaced base imm).toNat : Int) = ((base.toNat : Int) + imm.toInt) % 2 ^ 32 := by
  have himm : ((immSigned imm).toNat : Int) = imm.toInt % 2 ^ 32 := by
    rw [immSigned, BitVec.signExtend, BitVec.toNat_ofInt, Int.toNat_of_nonneg (by omega)]
    rfl
  rw [displaced, BitVec.toNat_add, Int.natCast_emod, Int.natCast_add, himm]
  exact Int.add_emod_emod ..

/-- An aligned access ends inside the address space. -/
theorem Width.aligned_add_bytes_le (w : Width) (a : Word) (h : a.toNat % w.bytes = 0) :
    a.toNat + w.bytes ≤ 2 ^ 32 := by
  have ha := a.isLt
  cases w <;> simp only [Width.bytes] at h ⊢ <;> omega

/-- The bytes of an aligned access stand at consecutive addresses. -/
theorem Width.span_toNat (w : Width) (a : Word) (h : a.toNat % w.bytes = 0) :
    (w.span a).map BitVec.toNat = (List.range w.bytes).map (a.toNat + ·) := by
  rw [Width.span, List.map_map]
  refine List.map_congr_left fun k hk => ?_
  have hk : k < w.bytes := List.mem_range.1 hk
  have htop := w.aligned_add_bytes_le a h
  rw [Function.comp_apply, BitVec.toNat_add, BitVec.toNat_ofNat]
  omega

/-! ### Stores, then narrower or wider reads (R56, R57, R58) -/

/-- A byte after `MemWrite(a, 1, v)`. -/
theorem State.byteAt_memWrite8 (a b : Word) (v : Byte) (h : Memory.wf s.mem = true) :
    (s.memWrite8 a v).byteAt b = if b = a then v else s.byteAt b :=
  State.byteAt_setByte a b v h

/-- A byte after `MemWrite(a, 2, v)`. -/
theorem State.byteAt_memWrite16 (a b : Word) (v : Half) (h : Memory.wf s.mem = true) :
    (s.memWrite16 a v).byteAt b =
      if b = a then (if s.cfg.endian = .little then v.extractLsb' 0 8 else v.extractLsb' 8 8)
      else if b = a + 1#32 then
        (if s.cfg.endian = .little then v.extractLsb' 8 8 else v.extractLsb' 0 8)
      else s.byteAt b := by
  obtain ⟨h0, h1⟩ := State.memWrite16_bytes a v h
  split
  · next hb => rw [hb, h0]
  · next hb =>
    split
    · next hb' => rw [hb', h1]
    · next hb' => exact State.memWrite16_sameMemory s a v b (by simp [Width.span_half, hb, hb'])

/-! ### A word from its bytes (R56, R58) -/

/-- The big-endian word of four bytes is the little-endian word of the same bytes in reverse (R56). -/
theorem wordOfBytes_big (b0 b1 b2 b3 : Byte) :
    wordOfBytes .big b0 b1 b2 b3 = wordOfBytes .little b3 b2 b1 b0 := rfl

/-- A word is its two halfwords (R56). -/
theorem wordOfBytes_eq_halves (b0 b1 b2 b3 : Byte) :
    wordOfBytes .little b0 b1 b2 b3 = b3 ++ b2 ++ (b1 ++ b0) :=
  BitVec.append_assoc

/-- A word's high halfword, low halfword, high three bytes and low three bytes, by byte. -/
theorem append_extractLsb'_bytes (v : Word) :
    v.extractLsb' 24 8 ++ v.extractLsb' 16 8 = v.extractLsb' 16 16 ∧
    v.extractLsb' 8 8 ++ v.extractLsb' 0 8 = v.extractLsb' 0 16 ∧
    v.extractLsb' 16 16 ++ v.extractLsb' 8 8 = v.extractLsb' 8 24 ∧
    v.extractLsb' 16 8 ++ v.extractLsb' 0 16 = v.extractLsb' 0 24 :=
  ⟨BitVec.extractLsb'_append_extractLsb'_eq_extractLsb' rfl,
    BitVec.extractLsb'_append_extractLsb'_eq_extractLsb' rfl,
    BitVec.extractLsb'_append_extractLsb'_eq_extractLsb' rfl,
    BitVec.extractLsb'_append_extractLsb'_eq_extractLsb' rfl⟩

/-- A halfword is its two bytes. -/
theorem append_extractLsb'_half (h : Half) : h.extractLsb' 8 8 ++ h.extractLsb' 0 8 = h :=
  (BitVec.extractLsb'_append_extractLsb'_eq_extractLsb' rfl).trans BitVec.extractLsb'_eq_self

/-- A word with one byte or one halfword replaced, from its bytes in little-endian order (R58). -/
theorem wordOfBytes_little_merge (v : Word) (b : Byte) (h : Half) :
    wordOfBytes .little b (v.extractLsb' 8 8) (v.extractLsb' 16 8) (v.extractLsb' 24 8) =
      v.extractLsb' 8 24 ++ b ∧
    wordOfBytes .little (v.extractLsb' 0 8) b (v.extractLsb' 16 8) (v.extractLsb' 24 8) =
      v.extractLsb' 16 16 ++ b ++ v.extractLsb' 0 8 ∧
    wordOfBytes .little (v.extractLsb' 0 8) (v.extractLsb' 8 8) b (v.extractLsb' 24 8) =
      v.extractLsb' 24 8 ++ b ++ v.extractLsb' 0 16 ∧
    wordOfBytes .little (v.extractLsb' 0 8) (v.extractLsb' 8 8) (v.extractLsb' 16 8) b =
      b ++ v.extractLsb' 0 24 ∧
    wordOfBytes .little (h.extractLsb' 0 8) (h.extractLsb' 8 8) (v.extractLsb' 16 8)
      (v.extractLsb' 24 8) = v.extractLsb' 16 16 ++ h ∧
    wordOfBytes .little (v.extractLsb' 0 8) (v.extractLsb' 8 8) (h.extractLsb' 0 8)
      (h.extractLsb' 8 8) = h ++ v.extractLsb' 0 16 := by
  obtain ⟨hhigh, hlow, hhigh3, hlow3⟩ := append_extractLsb'_bytes v
  refine ⟨?_, ?_, ?_, ?_, ?_, ?_⟩
  · rw [wordOfBytes, hhigh, hhigh3]
  · rw [wordOfBytes, hhigh]
  · rw [wordOfBytes_eq_halves, hlow]
  · rw [wordOfBytes_eq_halves, hlow, ← hlow3]
    exact BitVec.append_assoc
  · rw [wordOfBytes_eq_halves, hhigh, append_extractLsb'_half]
  · rw [wordOfBytes_eq_halves, hlow, append_extractLsb'_half]

/-! ### Narrow stores over a word, and narrow reads of one (R58) -/

/-- `MemRead(a, 4)` after a byte is stored at one of the word's four addresses. -/
theorem State.memRead32_memWrite8 (a : Word) (b : Byte) (h : Memory.wf s.mem = true) :
    (s.memWrite8 a b).memRead32 a = wordOfBytes s.cfg.endian b (s.byteAt (a + 1#32))
      (s.byteAt (a + 2#32)) (s.byteAt (a + 3#32)) ∧
    (s.memWrite8 (a + 1#32) b).memRead32 a = wordOfBytes s.cfg.endian (s.byteAt a) b
      (s.byteAt (a + 2#32)) (s.byteAt (a + 3#32)) ∧
    (s.memWrite8 (a + 2#32) b).memRead32 a = wordOfBytes s.cfg.endian (s.byteAt a)
      (s.byteAt (a + 1#32)) b (s.byteAt (a + 3#32)) ∧
    (s.memWrite8 (a + 3#32) b).memRead32 a = wordOfBytes s.cfg.endian (s.byteAt a)
      (s.byteAt (a + 1#32)) (s.byteAt (a + 2#32)) b := by
  simp [State.memRead32, State.byteAt_memWrite8, h]

/-- `MemRead(a, 4)` after a halfword is stored at one of the word's two halfword addresses. -/
theorem State.memRead32_memWrite16 (a : Word) (v : Half) (h : Memory.wf s.mem = true) :
    (s.memWrite16 a v).memRead32 a = wordOfBytes s.cfg.endian
      (if s.cfg.endian = .little then v.extractLsb' 0 8 else v.extractLsb' 8 8)
      (if s.cfg.endian = .little then v.extractLsb' 8 8 else v.extractLsb' 0 8)
      (s.byteAt (a + 2#32)) (s.byteAt (a + 3#32)) ∧
    (s.memWrite16 (a + 2#32) v).memRead32 a = wordOfBytes s.cfg.endian
      (s.byteAt a) (s.byteAt (a + 1#32))
      (if s.cfg.endian = .little then v.extractLsb' 0 8 else v.extractLsb' 8 8)
      (if s.cfg.endian = .little then v.extractLsb' 8 8 else v.extractLsb' 0 8) := by
  simp [State.memRead32, State.byteAt_memWrite16, h, BitVec.add_assoc]

/-- `MemRead` of the two halfwords of a word, by its bytes. -/
theorem State.memRead16_halves (s : State) (a : Word) :
    s.memRead16 a = (if s.cfg.endian = .little then s.byteAt (a + 1#32) ++ s.byteAt a
      else s.byteAt a ++ s.byteAt (a + 1#32)) ∧
    s.memRead16 (a + 2#32) =
      (if s.cfg.endian = .little then s.byteAt (a + 3#32) ++ s.byteAt (a + 2#32)
      else s.byteAt (a + 2#32) ++ s.byteAt (a + 3#32)) := by
  have h3 : a + 2#32 + 1#32 = a + 3#32 := BitVec.add_assoc ..
  unfold State.memRead16
  cases s.cfg.endian <;> simp [h3]

/-- The bytes and halfwords of a stored word, in either byte order (R58). -/
theorem State.narrowReads_memWrite32 (a v : Word) (hw : Memory.wf s.mem = true) :
    (s.memWrite32 a v).memRead8 a =
      (if s.cfg.endian = .little then v.extractLsb' 0 8 else v.extractLsb' 24 8) ∧
    (s.memWrite32 a v).memRead8 (a + 1#32) =
      (if s.cfg.endian = .little then v.extractLsb' 8 8 else v.extractLsb' 16 8) ∧
    (s.memWrite32 a v).memRead8 (a + 2#32) =
      (if s.cfg.endian = .little then v.extractLsb' 16 8 else v.extractLsb' 8 8) ∧
    (s.memWrite32 a v).memRead8 (a + 3#32) =
      (if s.cfg.endian = .little then v.extractLsb' 24 8 else v.extractLsb' 0 8) ∧
    (s.memWrite32 a v).memRead16 a =
      (if s.cfg.endian = .little then v.extractLsb' 0 16 else v.extractLsb' 16 16) ∧
    (s.memWrite32 a v).memRead16 (a + 2#32) =
      (if s.cfg.endian = .little then v.extractLsb' 16 16 else v.extractLsb' 0 16) := by
  obtain ⟨b0, b1, b2, b3⟩ := State.memWrite32_bytes a v hw
  obtain ⟨half0, half2⟩ := (s.memWrite32 a v).memRead16_halves a
  obtain ⟨hhigh, hlow, -, -⟩ := append_extractLsb'_bytes v
  refine ⟨b0, b1, b2, b3, ?_, ?_⟩
  · rw [half0, b0, b1, State.memWrite32_cfg]
    split
    · exact hlow
    · exact hhigh
  · rw [half2, b2, b3, State.memWrite32_cfg]
    split
    · exact hhigh
    · exact hlow

/-- The word read after a byte or a halfword is stored over part of it, in either byte order (R58). -/
theorem State.memRead32_merge (a v : Word) (b : Byte) (h : Half) (hw : Memory.wf s.mem = true) :
    ((s.memWrite32 a v).memWrite8 a b).memRead32 a =
      (if s.cfg.endian = .little then v.extractLsb' 8 24 ++ b else b ++ v.extractLsb' 0 24) ∧
    ((s.memWrite32 a v).memWrite8 (a + 1#32) b).memRead32 a =
      (if s.cfg.endian = .little then v.extractLsb' 16 16 ++ b ++ v.extractLsb' 0 8
      else v.extractLsb' 24 8 ++ b ++ v.extractLsb' 0 16) ∧
    ((s.memWrite32 a v).memWrite8 (a + 2#32) b).memRead32 a =
      (if s.cfg.endian = .little then v.extractLsb' 24 8 ++ b ++ v.extractLsb' 0 16
      else v.extractLsb' 16 16 ++ b ++ v.extractLsb' 0 8) ∧
    ((s.memWrite32 a v).memWrite8 (a + 3#32) b).memRead32 a =
      (if s.cfg.endian = .little then b ++ v.extractLsb' 0 24 else v.extractLsb' 8 24 ++ b) ∧
    ((s.memWrite32 a v).memWrite16 a h).memRead32 a =
      (if s.cfg.endian = .little then v.extractLsb' 16 16 ++ h else h ++ v.extractLsb' 0 16) ∧
    ((s.memWrite32 a v).memWrite16 (a + 2#32) h).memRead32 a =
      (if s.cfg.endian = .little then h ++ v.extractLsb' 0 16 else v.extractLsb' 16 16 ++ h) := by
  have hwf := State.memWrite32_wf a v hw
  obtain ⟨b0, b1, b2, b3⟩ := State.memWrite32_bytes a v hw
  obtain ⟨r0, r1, r2, r3⟩ := State.memRead32_memWrite8 a b hwf
  obtain ⟨rhalf0, rhalf2⟩ := State.memRead32_memWrite16 a h hwf
  obtain ⟨m0, m1, m2, m3, mlow, mhigh⟩ := wordOfBytes_little_merge v b h
  rw [r0, r1, r2, r3, rhalf0, rhalf2, b0, b1, b2, b3, State.memWrite32_cfg]
  cases s.cfg.endian with
  | little =>
    simp only [if_true]
    exact ⟨m0, m1, m2, m3, mlow, mhigh⟩
  | big =>
    simp only [reduceCtorEq, if_false, wordOfBytes_big]
    exact ⟨m3, m2, m1, m0, mhigh, mlow⟩

/-! ### A load right after a store (R63, R64, R67) -/

/-- Reads of memory do not see the end of an instruction. -/
@[simp] theorem State.advance_memRead8 (s : State) (a : Word) :
    s.advance.memRead8 a = s.memRead8 a := rfl
@[simp] theorem State.advance_memRead16 (s : State) (a : Word) :
    s.advance.memRead16 a = s.memRead16 a := rfl
@[simp] theorem State.advance_memRead32 (s : State) (a : Word) :
    s.advance.memRead32 a = s.memRead32 a := rfl

/-- `MemRead(a, 1)` after `MemWrite(a, 1, v)` (R56, R57, R64). -/
theorem State.memRead8_memWrite8 (a : Word) (v : Byte) (h : Memory.wf s.mem = true) :
    (s.memWrite8 a v).memRead8 a = v :=
  State.byteAt_setByte_same a v h

/-- Where a store may be performed, a later load of the run may be: `mapped` is fixed (R62). -/
theorem State.CanStore.canLoad {w : Width} {a : Word} (h : s.CanStore w a) (hc : t.cfg = s.cfg) :
    t.CanLoad w a := by
  refine ⟨h.1, fun b hb => ?_⟩
  rw [State.isMapped, hc]
  exact (h.2 b hb).1

/-- A load into a general register that may be performed completes with the value read. -/
theorem setsGpr_of_load {w : Width} {a : Word} {rd : Reg} {v : State → Word}
    (hexec : exec i s = s.load w a fun u => u.writeGpr rd (v u)) (h : s.CanLoad w a) :
    SetsGpr i s rd (v s) :=
  ⟨_, hexec.trans (State.load_completes _ h), writesGpr_advance s rd (v s)⟩

/-- A load into a floating-point register that may be performed completes with the value read. -/
theorem setsFpr_of_load {w : Width} {a : Word} {fd : FReg} {v : State → Word}
    (hexec : exec i s = s.load w a fun u => u.writeFpr fd (v u)) (h : s.CanLoad w a) :
    SetsFpr i s fd (v s) :=
  ⟨_, hexec.trans (State.load_completes _ h), writesFpr_advance s fd (v s)⟩

/-- `lhu` is the shared load of a halfword (spec/46_itype_loadstore.md R220). -/
theorem exec_lhu (s : State) (rt : Reg) (imm : Imm) (rs : Reg) :
    exec (.lhu rt imm rs) s = s.load .half (displaced (s.readGpr rs) imm) fun u =>
      u.writeGpr rt (halfZero (u.memRead16 (displaced (s.readGpr rs) imm))) := rfl

/-- `lbu` is the shared load of a byte (R218). -/
theorem exec_lbu (s : State) (rt : Reg) (imm : Imm) (rs : Reg) :
    exec (.lbu rt imm rs) s = s.load .byte (displaced (s.readGpr rs) imm) fun u =>
      u.writeGpr rt (byteZero (u.memRead8 (displaced (s.readGpr rs) imm))) := rfl

/-- `lwc1` is the shared load of a word (R225). -/
theorem exec_lwc1 (s : State) (ft : FReg) (imm : Imm) (rs : Reg) :
    exec (.lwc1 ft imm rs) s = s.load .word (displaced (s.readGpr rs) imm) fun u =>
      u.writeFpr ft (u.memRead32 (displaced (s.readGpr rs) imm)) := rfl

/-- `sw` is the shared store of a word (R224). -/
theorem exec_sw (s : State) (rt : Reg) (imm : Imm) (rs : Reg) :
    exec (.sw rt imm rs) s = s.store .word (displaced (s.readGpr rs) imm) fun u =>
      u.memWrite32 (displaced (s.readGpr rs) imm) (u.readGpr rt) := rfl

/-- `sh` is the shared store of a halfword (R223). -/
theorem exec_sh (s : State) (rt : Reg) (imm : Imm) (rs : Reg) :
    exec (.sh rt imm rs) s = s.store .half (displaced (s.readGpr rs) imm) fun u =>
      u.memWrite16 (displaced (s.readGpr rs) imm) (lowHalf (u.readGpr rt)) := rfl

/-- `sb` is the shared store of a byte (R222). -/
theorem exec_sb (s : State) (rt : Reg) (imm : Imm) (rs : Reg) :
    exec (.sb rt imm rs) s = s.store .byte (displaced (s.readGpr rs) imm) fun u =>
      u.memWrite8 (displaced (s.readGpr rs) imm) (lowByte (u.readGpr rt)) := rfl

/-- `swc1` is the shared store of a word (R226). -/
theorem exec_swc1 (s : State) (ft : FReg) (imm : Imm) (rs : Reg) :
    exec (.swc1 ft imm rs) s = s.store .word (displaced (s.readGpr rs) imm) fun u =>
      u.memWrite32 (displaced (s.readGpr rs) imm) (u.readFpr ft) := rfl

/-- The low halfword of a register, widened by zeros, as a number (R63). -/
theorem halfZero_lowHalf (x : Word) : halfZero (lowHalf x) = BitVec.ofNat 32 (x.toNat % 2 ^ 16) := by
  apply BitVec.eq_of_toNat_eq
  simp [halfZero, lowHalf]

/-- The low byte of a register, widened by zeros, as a number (R63). -/
theorem byteZero_lowByte (x : Word) : byteZero (lowByte x) = BitVec.ofNat 32 (x.toNat % 2 ^ 8) := by
  apply BitVec.eq_of_toNat_eq
  simp [byteZero, lowByte]

/-- A store that may be performed, then a load of the same address into a general register. -/
theorem setsGpr_after_store {st ld : Instr} {w : Width} {a : Word} {rd : Reg} {f : State → State}
    {v : State → Word} (h : s.CanStore w a) (hst : exec st s = s.store w a f)
    (hcfg : (f s).cfg = s.cfg)
    (hld : exec ld (f s).advance = (f s).advance.load w a fun u => u.writeGpr rd (v u)) :
    ∃ t, exec st s = .next t ∧ SetsGpr ld t rd (v (f s).advance) :=
  ⟨_, hst.trans (State.store_completes f h), setsGpr_of_load hld (h.canLoad hcfg)⟩

/-- A store that may be performed, then a load of the same address into a floating-point register. -/
theorem setsFpr_after_store {st ld : Instr} {w : Width} {a : Word} {fd : FReg} {f : State → State}
    {v : State → Word} (h : s.CanStore w a) (hst : exec st s = s.store w a f)
    (hcfg : (f s).cfg = s.cfg)
    (hld : exec ld (f s).advance = (f s).advance.load w a fun u => u.writeFpr fd (v u)) :
    ∃ t, exec st s = .next t ∧ SetsFpr ld t fd (v (f s).advance) :=
  ⟨_, hst.trans (State.store_completes f h), setsFpr_of_load hld (h.canLoad hcfg)⟩

/-- `sw`, then `lw` of the same address. -/
theorem setsGpr_lw_after_sw (rt rd rs : Reg) (imm : Imm) (hw : Memory.wf s.mem = true)
    (h : s.CanStore .word (displaced (s.readGpr rs) imm)) :
    ∃ t, exec (.sw rt imm rs) s = .next t ∧ SetsGpr (.lw rd imm rs) t rd (s.readGpr rt) := by
  simpa [State.memRead32_memWrite32, hw] using setsGpr_after_store
    (v := fun u => u.memRead32 (displaced (s.readGpr rs) imm)) h (exec_sw s rt imm rs) (by simp)
    (by simp [exec_lw])

/-- `sh`, then `lhu` of the same address. -/
theorem setsGpr_lhu_after_sh (rt rd rs : Reg) (imm : Imm) (hw : Memory.wf s.mem = true)
    (h : s.CanStore .half (displaced (s.readGpr rs) imm)) :
    ∃ t, exec (.sh rt imm rs) s = .next t ∧
      SetsGpr (.lhu rd imm rs) t rd (BitVec.ofNat 32 ((s.readGpr rt).toNat % 2 ^ 16)) := by
  rw [← halfZero_lowHalf]
  simpa [State.memRead16_memWrite16, hw] using setsGpr_after_store
    (v := fun u => halfZero (u.memRead16 (displaced (s.readGpr rs) imm))) h (exec_sh s rt imm rs)
    (by simp) (by simp [exec_lhu])

/-- `sb`, then `lbu` of the same address. -/
theorem setsGpr_lbu_after_sb (rt rd rs : Reg) (imm : Imm) (hw : Memory.wf s.mem = true)
    (h : s.CanStore .byte (displaced (s.readGpr rs) imm)) :
    ∃ t, exec (.sb rt imm rs) s = .next t ∧
      SetsGpr (.lbu rd imm rs) t rd (BitVec.ofNat 32 ((s.readGpr rt).toNat % 2 ^ 8)) := by
  rw [← byteZero_lowByte]
  simpa [State.memRead8_memWrite8, hw] using setsGpr_after_store
    (v := fun u => byteZero (u.memRead8 (displaced (s.readGpr rs) imm))) h (exec_sb s rt imm rs)
    (by simp) (by simp [exec_lbu])

/-- `swc1`, then `lwc1` of the same address. -/
theorem setsFpr_lwc1_after_swc1 (ft fd : FReg) (rs : Reg) (imm : Imm) (hw : Memory.wf s.mem = true)
    (h : s.CanStore .word (displaced (s.readGpr rs) imm)) :
    ∃ t, exec (.swc1 ft imm rs) s = .next t ∧ SetsFpr (.lwc1 fd imm rs) t fd (s.readFpr ft) := by
  simpa [State.memRead32_memWrite32, hw] using setsFpr_after_store
    (v := fun u => u.memRead32 (displaced (s.readGpr rs) imm)) h (exec_swc1 s ft imm rs) (by simp)
    (by simp [exec_lwc1])

end Rules

/-! ### The obligations -/

/-- Settles O10: the effects of an instruction keep `cfg` and every byte in `text`, and the checks of
stores and fetches refuse the rest. -/
theorem programTextNeverChanges : Obligations.ProgramTextNeverChanges := by
  refine ⟨fun s t hstep => ?_, fun i s w rs imm hi hal ⟨b, hb, htext⟩ => ?_,
    fun s hrun hal htext => ?_⟩
  · obtain ⟨-, i, he⟩ := step_effect hstep
    obtain ⟨-, hcfg⟩ := he.sameCp0_cfg
    exact ⟨by rw [hcfg], fun a => he.byteAt_of_inText⟩
  · exact (storeRaises_of_storeAccess s hi).2 hal ⟨b, hb, .inr htext⟩
  · exact step_of_checkFetch hrun (State.checkFetch_refused s hal (.inr htext))

/-- Settles O6: the fetch checks alignment first, and only the target of `jr` and `jalr` is a whole
register. -/
theorem misalignedFetchRaises : Obligations.MisalignedFetchRaises :=
  ⟨fun s hrun hmis => step_of_checkFetch hrun (State.checkFetch_misaligned s hmis),
    fun _ _ _ hpc hdelay hjr hjalr hexec => exec_pcAligned ⟨hpc, hdelay⟩ hjr hjalr hexec,
    fun s rd rs hs => ⟨jumps_jr rs hs, s.linkValue, linksAndJumps_jalr rd rs hs⟩⟩

/-- Settles O8: an unmapped byte is one of the causes each of the three checks answers `BusError` for. -/
theorem unmappedAccessRaises : Obligations.UnmappedAccessRaises :=
  ⟨fun s hrun hal hunmapped =>
      step_of_checkFetch hrun (State.checkFetch_refused s hal (.inl hunmapped)),
    fun _ s _ _ _ hi => (loadRaises_of_loadAccess s hi).2,
    fun _ s _ _ _ hi hal ⟨b, hb, hunmapped⟩ =>
      (storeRaises_of_storeAccess s hi).2 hal ⟨b, hb, .inl hunmapped⟩⟩

/-- Settles O9: alignment is the first check of every load and store. -/
theorem misalignedDataAccessRaises : Obligations.MisalignedDataAccessRaises :=
  ⟨fun _ s _ _ _ hi => (loadRaises_of_loadAccess s hi).1,
    fun _ s _ _ _ hi => (storeRaises_of_storeAccess s hi).1⟩

/-- Settles O19: no effect of an instruction touches the parameters or coprocessor 0. -/
theorem launchParametersAreFixed : Obligations.LaunchParametersAreFixed := by
  intro s t hstep
  obtain ⟨-, i, he⟩ := step_effect hstep
  obtain ⟨hcp0, hcfg⟩ := he.sameCp0_cfg
  exact ⟨by rw [hcfg], hcfg, State.readCp0_congr hcp0⟩

/-- Settles O47: each read is of the bytes R57 lists, and a narrow store replaces its own among them. -/
theorem mixedWidthReads : Obligations.MixedWidthReads := by
  refine ⟨fun s a b => ?_, fun s a h => ?_, fun s a hw _ => ?_⟩
  · simpa only [Width.span_byte] using s.memWrite8_sameMemory a b
  · simpa only [Width.span_half] using s.memWrite16_sameMemory a h
  · obtain ⟨b0, b1, b2, b3, half0, half2⟩ := s.narrowReads_memWrite32 a 0xAABBCCDD#32 hw
    have hmerge := fun v b h => s.memRead32_merge a v b h hw
    constructor <;> intro he <;> simp only [he] at b0 b1 b2 b3 half0 half2 hmerge <;>
      exact ⟨b0, b1, b2, b3, half0, half2, hmerge⟩

/-- Settles O48: the store completes, its load reads the same address, and memory gives the value back. -/
theorem storeThenLoad : Obligations.StoreThenLoad :=
  fun _ rt rd rs ft fd imm hw =>
    ⟨setsGpr_lw_after_sw rt rd rs imm hw, setsGpr_lhu_after_sh rt rd rs imm hw,
      setsGpr_lbu_after_sb rt rd rs imm hw, setsFpr_lwc1_after_swc1 ft fd rs imm hw⟩

/-- Settles O23: addition of words is modulo 2^32, and 2^32 is a multiple of every width. -/
theorem addressArithmeticWraps : Obligations.AddressArithmeticWraps :=
  ⟨displaced_toNat,
    fun w a hal => ⟨Nat.sub_le_sub_right (w.aligned_add_bytes_le a hal) 1, w.span_toNat a hal⟩⟩

end Sys2Proof.Machine
end

section
/-! PROOFS. Encoding (spec/30_encoding.md): the decoder inverts the encoder and the encoder the decoder,
both agree with the mask and match columns of the opcode table, and the fields an assembler computes
from a label. -/

namespace Sys2Proof

/-! ### From the instruction to its word and back -/

/-- The word of an instruction decodes to it. The decoder is sent to the instruction's row by the
opcode, function and format fields of the word, finds the unused fields zero, and reads each operand
from the field that codes it: the lemmas on the fields of each layout. -/
theorem decodeWord_encode (i : Instr) : decodeWord (encode i) = .ok i := by
  cases i
  all_goals
    simp [encode, decodeWord, decodeSpecial, decodeRegimm, decodeCop0, decodeCop1, decodeFmtS,
      decodeFmtW, requireZero]

/-- Settles O1: the four bytes read back as the word, in either byte order, and the word decodes. -/
theorem encodeThenDecode : Obligations.EncodeThenDecode := by
  intro e i rest
  rw [decode_bytesOfWord, decodeWord_encode]

/-! ### From the word to its instruction and back, by decoder -/

section DecodeThenEncode

variable {w : Word} {i : Instr}

/-- A field, from the number a decoder matches on. -/
theorem eq_ofNat_of_toNat_eq {n k : Nat} {x : BitVec n} (h : x.toNat = k) : x = BitVec.ofNat n k := by
  rw [← h, BitVec.ofNat_toNat, BitVec.setWidth_eq]

/-- R-type words (R95). -/
theorem encode_of_decodeSpecial (hop : fieldOpcode w = 0x00#6) (h : decodeSpecial w = .ok i) :
    encode i = w := by
  have hw := encodeR_fields w hop
  unfold decodeSpecial at h
  split at h
  case h_29 => cases h
  all_goals
    rename_i hfunct
    simp only [requireZero_eq_ok, Bool.and_eq_true, beq_iff_eq] at h
    obtain ⟨hunused, rfl⟩ := h
    simp only [eq_ofNat_of_toNat_eq hfunct, hunused] at hw
    exact hw

/-- Words with an opcode extension in `rt` (R92). -/
theorem encode_of_decodeRegimm (hop : fieldOpcode w = 0x01#6) (h : decodeRegimm w = .ok i) :
    encode i = w := by
  have hw := encodeI_fields w
  unfold decodeRegimm at h
  split at h
  case h_3 => cases h
  all_goals
    rename_i hrt
    cases h
    rw [hop, eq_ofNat_of_toNat_eq hrt] at hw
    exact hw

/-- Coprocessor 0 words (R97). -/
theorem encode_of_decodeCop0 (hop : fieldOpcode w = 0x10#6) (h : decodeCop0 w = .ok i) :
    encode i = w := by
  have hw := encodeCop_fields w
  unfold decodeCop0 at h
  split at h
  case h_1 hfmt =>
    simp only [requireZero_eq_ok, Bool.and_eq_true, beq_iff_eq] at h
    obtain ⟨hunused, rfl⟩ := h
    simp only [hop, eq_ofNat_of_toNat_eq hfmt, hunused] at hw
    exact hw
  case h_2 => cases h

/-- Single precision words (R96). -/
theorem encode_of_decodeFmtS (hop : fieldOpcode w = 0x11#6) (hfmt : fieldRs w = 0x10#5)
    (h : decodeFmtS w = .ok i) : encode i = w := by
  have hw := encodeCop_fields w
  unfold decodeFmtS at h
  split at h
  case h_7 => cases h
  all_goals
    rename_i hfunct
    rw [hop, hfmt, eq_ofNat_of_toNat_eq hfunct] at hw
  case h_5 | h_6 =>
    simp only [requireZero_eq_ok, beq_iff_eq] at h
    obtain ⟨hft, rfl⟩ := h
    rw [hft] at hw
    exact hw
  all_goals
    cases h
    exact hw

/-- Fixed point words (R96). -/
theorem encode_of_decodeFmtW (hop : fieldOpcode w = 0x11#6) (hfmt : fieldRs w = 0x14#5)
    (h : decodeFmtW w = .ok i) : encode i = w := by
  have hw := encodeCop_fields w
  unfold decodeFmtW at h
  split at h
  case h_1 hfunct =>
    simp only [requireZero_eq_ok, beq_iff_eq] at h
    obtain ⟨hft, rfl⟩ := h
    rw [hop, hfmt, hft, eq_ofNat_of_toNat_eq hfunct] at hw
    exact hw
  case h_2 => cases h

/-- Coprocessor 1 words (R93, R96). -/
theorem encode_of_decodeCop1 (hop : fieldOpcode w = 0x11#6) (h : decodeCop1 w = .ok i) :
    encode i = w := by
  have hw := encodeCop_fields w
  unfold decodeCop1 at h
  split at h
  case h_3 hfmt => exact encode_of_decodeFmtS hop (eq_ofNat_of_toNat_eq hfmt) h
  case h_4 hfmt => exact encode_of_decodeFmtW hop (eq_ofNat_of_toNat_eq hfmt) h
  case h_5 => cases h
  all_goals
    rename_i hfmt
    simp only [requireZero_eq_ok, Bool.and_eq_true, beq_iff_eq] at h
    obtain ⟨hunused, rfl⟩ := h
    simp only [hop, eq_ofNat_of_toNat_eq hfmt, hunused] at hw
    exact hw

/-- A word that decodes is the word of its instruction: the decoder's guards and operands are all the
fields of the word, and a word is its fields (R81, R94). -/
theorem encode_of_decodeWord (h : decodeWord w = .ok i) : encode i = w := by
  have hI := encodeI_fields w
  have hJ := encodeJ_fields w
  unfold decodeWord at h
  split at h
  case h_29 => cases h
  all_goals
    rename_i hopcode
    have hop := eq_ofNat_of_toNat_eq hopcode
    rw [hop] at hI hJ
  case h_1 => exact encode_of_decodeSpecial hop h
  case h_2 => exact encode_of_decodeRegimm hop h
  case h_17 => exact encode_of_decodeCop0 hop h
  case h_18 => exact encode_of_decodeCop1 hop h
  case h_3 | h_4 =>
    cases h
    exact hJ
  case h_7 | h_8 =>
    dsimp only at h
    split at h
    · next hrt =>
      cases h
      rw [hrt] at hI
      exact hI
    · cases h
  case h_16 =>
    simp only [requireZero_eq_ok, beq_iff_eq] at h
    obtain ⟨hrs, rfl⟩ := h
    rw [hrs] at hI
    exact hI
  all_goals
    cases h
    exact hI

end DecodeThenEncode

/-- Settles O2, by the decoder that accepts the word. -/
theorem decodeThenEncode : Obligations.DecodeThenEncode := fun _ _ => encode_of_decodeWord

/-! ### The mask and match columns of the opcode table (R101) -/

/-- Words are equal exactly if their fields are. -/
theorem word_eq_iff_fields (w v : Word) : w = v ↔
    fieldOpcode w = fieldOpcode v ∧ fieldRs w = fieldRs v ∧ fieldRt w = fieldRt v ∧
    fieldRd w = fieldRd v ∧ fieldSa w = fieldSa v ∧ fieldFunct w = fieldFunct v := by
  constructor
  · rintro rfl
    exact ⟨rfl, rfl, rfl, rfl, rfl, rfl⟩
  · rintro ⟨hop, hrs, hrt, hrd, hsa, hfunct⟩
    rw [← encodeCop_fields w, ← encodeCop_fields v, hop, hrs, hrt, hrd, hsa, hfunct]

/-- A row covers a word exactly if it does so field by field. The mask and the match are written bit by
bit, so that they evaluate for a given row while the fields of the word stand. -/
theorem EncodingRow.covers_iff (r : EncodingRow) (w : Word) : r.covers w = true ↔
    fieldOpcode w &&& r.mask.extractLsb' 26 6 = r.pattern.extractLsb' 26 6 ∧
    fieldRs w &&& r.mask.extractLsb' 21 5 = r.pattern.extractLsb' 21 5 ∧
    fieldRt w &&& r.mask.extractLsb' 16 5 = r.pattern.extractLsb' 16 5 ∧
    fieldRd w &&& r.mask.extractLsb' 11 5 = r.pattern.extractLsb' 11 5 ∧
    fieldSa w &&& r.mask.extractLsb' 6 5 = r.pattern.extractLsb' 6 5 ∧
    fieldFunct w &&& r.mask.extractLsb' 0 6 = r.pattern.extractLsb' 0 6 := by
  rw [covers, beq_iff_eq, word_eq_iff_fields]
  simp only [fieldOpcode, fieldRs, fieldRt, fieldRd, fieldSa, fieldFunct, BitVec.extractLsb'_and]

/-- A mask that covers a five-bit field leaves it whole. -/
theorem and_ones5 (x : BitVec 5) : x &&& 31#5 = x := BitVec.and_allOnes

/-- A mask that covers a six-bit field leaves it whole. -/
theorem and_ones6 (x : BitVec 6) : x &&& 63#6 = x := BitVec.and_allOnes

/-- The row of an instruction: `Instr` has one constructor for each row, in the order of the table. -/
def Instr.row (i : Instr) : EncodingRow := opcodeTable.getD i.ctorIdx ⟨"", 0, 0⟩

theorem Instr.row_mem (i : Instr) : i.row ∈ opcodeTable := by
  have hlen : opcodeTable.length = 64 := rfl
  have hlt : i.ctorIdx < opcodeTable.length := by cases i <;> simp [Instr.ctorIdx, hlen]
  rw [row, List.getD_eq_getElem _ _ hlt]
  exact List.getElem_mem hlt

theorem Instr.row_mnemonic (i : Instr) : i.row.mnemonic = i.mnemonic := by
  cases i <;> rfl

/-- The row of an instruction covers its word: the match holds the fields `encode` fixes, and the mask
is zero over the operands. -/
theorem Instr.row_covers_encode (i : Instr) : i.row.covers (encode i) = true := by
  rw [EncodingRow.covers_iff]
  cases i
  all_goals
    simp [row, Instr.ctorIdx, opcodeTable, opcodeTableR, opcodeTableI, opcodeTableJC, encode]

/-- A covered word has the fields its row fixes, and those take the decoder to the row's instruction. -/
theorem decodeWord_mnemonic_of_covers {r : EncodingRow} {w : Word} (hr : r ∈ opcodeTable)
    (h : r.covers w = true) : (decodeWord w).map Instr.mnemonic = .ok r.mnemonic := by
  rw [EncodingRow.covers_iff] at h
  unfold opcodeTable opcodeTableR opcodeTableI opcodeTableJC at hr
  fin_cases hr
  all_goals
    simp only [BitVec.reduceExtractLsb', and_ones5, and_ones6, BitVec.and_zero, true_and,
      and_true] at h
    simp [h, decodeWord, decodeSpecial, decodeRegimm, decodeCop0, decodeCop1, decodeFmtS, decodeFmtW,
      requireZero, Except.map, Instr.mnemonic]

/-- A word a row covers decodes to an instruction of that row. -/
theorem exists_decodeWord_of_covers {r : EncodingRow} {w : Word} (hr : r ∈ opcodeTable)
    (h : r.covers w = true) : ∃ i, decodeWord w = .ok i ∧ i.mnemonic = r.mnemonic := by
  have hm := decodeWord_mnemonic_of_covers hr h
  cases hd : decodeWord w with
  | error e => simp [hd, Except.map] at hm
  | ok i => exact ⟨i, rfl, by simpa [hd, Except.map] using hm⟩

/-- A decoded word is covered by the row of its instruction. -/
theorem row_covers_of_decodeWord {w : Word} {i : Instr} (h : decodeWord w = .ok i) :
    i.row.covers w = true := by
  rw [← encode_of_decodeWord h]
  exact i.row_covers_encode

/-- No two rows have one mnemonic. -/
theorem opcodeTable_mnemonic_nodup : (opcodeTable.map EncodingRow.mnemonic).Nodup := by decide

/-- Two rows that cover one word are one row: both have the mnemonic of what the word decodes to. -/
theorem row_eq_of_covers {r q : EncodingRow} {w : Word} (hr : r ∈ opcodeTable) (hq : q ∈ opcodeTable)
    (hrw : r.covers w = true) (hqw : q.covers w = true) : r = q := by
  have hrm := decodeWord_mnemonic_of_covers hr hrw
  rw [decodeWord_mnemonic_of_covers hq hqw] at hrm
  exact List.inj_on_of_nodup_map opcodeTable_mnemonic_nodup hr hq (Except.ok.inj hrm).symm

/-- Settles O3: a decoded word is its instruction's encoding, which that instruction's row covers. -/
theorem decoderMatchesOpcodeTable : Obligations.DecoderMatchesOpcodeTable :=
  ⟨fun _ i h => ⟨i.row, i.row_mem, i.row_mnemonic, row_covers_of_decodeWord h⟩,
    fun _ _ => exists_decodeWord_of_covers,
    fun _ _ hr _ hq => row_eq_of_covers hr hq⟩

/-- The decoder rejects a word that no row covers (R100). -/
theorem decodeWord_error_of_uncovered {w : Word} (h : ∀ r ∈ opcodeTable, r.covers w = false) :
    ∃ e, decodeWord w = .error e := by
  cases hd : decodeWord w with
  | error e => exact ⟨e, rfl⟩
  | ok i =>
    have hcov := row_covers_of_decodeWord hd
    simp [h i.row i.row_mem] at hcov

end Sys2Proof

namespace Sys2Proof.Machine

/-! ### Reserved words -/

/-- A fetch whose checks pass raises for a word the decoder rejects (R100). -/
theorem State.fetch_of_decodeWord_error {s : State} {e : Reject} (h : s.CanFetch)
    (hd : decodeWord (s.memRead32 s.pc) = .error e) :
    s.fetch = .error (.reservedInstruction (s.memRead32 s.pc)) := by
  rw [State.fetch_of_canFetch h, hd]

/-- A running machine takes the exception its fetch raises (spec/00_scope.md R14). -/
theorem step_of_fetch_error {s : State} {e : Exception} (hrun : s.status = .running)
    (hf : s.fetch = .error e) : step s = .next (s.faulted e) := by
  rw [step_of_running hrun, hf]

/-- Settles O7: the decoder accepts only covered words. -/
theorem reservedWordRaises : Obligations.ReservedWordRaises := by
  intro s hrun hcan hrows
  obtain ⟨e, hd⟩ := decodeWord_error_of_uncovered hrows
  exact step_of_fetch_error hrun (State.fetch_of_decodeWord_error hcan hd)

/-! ### Branch labels (R90) -/

section Branch

variable {pc label : Word} {imm : Imm}

/-- A branch's distance is four times its signed offset field, which the word holds without wrapping. -/
theorem toInt_immSigned_shiftLeft (imm : Imm) : (immSigned imm <<< 2).toInt = 4 * imm.toInt := by
  have hlt := imm.toInt_lt
  have hle := imm.le_toInt
  have hfour : (BitVec.twoPow 32 2).toInt = 4 := rfl
  rw [BitVec.shiftLeft_eq_mul_twoPow, BitVec.toInt_mul, immSigned,
    BitVec.toInt_signExtend_of_le (by decide), hfour, Int.mul_comm,
    Int.bmod_eq_of_le (by omega) (by omega)]

/-- Bits 17..2 of a branch's distance are its offset field. -/
theorem extractLsb'_immSigned_shiftLeft (imm : Imm) :
    (immSigned imm <<< 2).extractLsb' 2 16 = imm := by
  apply BitVec.eq_of_getLsbD_eq
  intro k hk
  simp only [immSigned, BitVec.getLsbD_extractLsb', BitVec.getLsbD_shiftLeft,
    BitVec.getLsbD_signExtend]
  grind

/-- The distances a branch can have are the multiples of 4 in its reach. -/
theorem exists_immSigned_shiftLeft_eq_iff (d : Word) : (∃ imm : Imm, immSigned imm <<< 2 = d) ↔
    d.toInt % 4 = 0 ∧ -131072 ≤ d.toInt ∧ d.toInt ≤ 131068 := by
  constructor
  · rintro ⟨imm, rfl⟩
    have hlt := imm.toInt_lt
    have hle := imm.le_toInt
    rw [toInt_immSigned_shiftLeft]
    omega
  · rintro ⟨hmul, hlo, hhi⟩
    refine ⟨BitVec.ofInt 16 (d.toInt / 4), BitVec.eq_of_toInt_eq ?_⟩
    rw [toInt_immSigned_shiftLeft, BitVec.toInt_ofInt, Int.bmod_eq_of_le] <;> omega

/-- A branch reaches a label exactly if its distance is the label's from `pc + 4`. -/
theorem branchTarget_eq_iff :
    branchTarget pc imm = label ↔ immSigned imm <<< 2 = label - (pc + 4#32) := by
  rw [branchTarget, eq_sub_iff_add_eq']

/-- The assembler gives the field whose branch reaches the label, and no other. -/
theorem assembleBranch_eq_some_iff :
    assembleBranch pc label = some imm ↔ branchTarget pc imm = label := by
  rw [branchTarget_eq_iff, assembleBranch]
  simp only [← exists_immSigned_shiftLeft_eq_iff, Option.ite_none_right_eq_some, Option.some.injEq]
  generalize label - (pc + 4#32) = d
  constructor
  · rintro ⟨⟨f, rfl⟩, hf⟩
    rw [← hf, extractLsb'_immSigned_shiftLeft]
  · rintro rfl
    exact ⟨⟨imm, rfl⟩, extractLsb'_immSigned_shiftLeft imm⟩

/-- The assembler accepts a label exactly in range. -/
theorem exists_assembleBranch_iff : (∃ f, assembleBranch pc label = some f) ↔
    (label - (pc + 4#32)).toInt % 4 = 0 ∧ -131072 ≤ (label - (pc + 4#32)).toInt ∧
      (label - (pc + 4#32)).toInt ≤ 131068 := by
  simp [assembleBranch]

end Branch

/-- Settles O54: the assembled field is the one field whose branch reaches the label. -/
theorem branchLabelRoundTrip : Obligations.BranchLabelRoundTrip := fun _ _ _ =>
  ⟨assembleBranch_eq_some_iff.1, assembleBranch_eq_some_iff.2 rfl, exists_assembleBranch_iff⟩

/-! ### Jump labels (R91) -/

section Jump

variable {pc label : Word} {f : Target}

/-- The assembler gives the field whose jump reaches the label, and no other. -/
theorem assembleJump_eq_some_iff :
    assembleJump pc label = some f ↔ jumpTarget pc f = label := by
  rw [assembleJump, jumpTarget, Option.ite_none_right_eq_some, Option.some.injEq]
  constructor
  · rintro ⟨⟨hregion, haligned⟩, rfl⟩
    have hhigh : label.extractLsb' 28 4 ++ label.extractLsb' 2 26 = label.extractLsb' 2 30 :=
      BitVec.extractLsb'_append_extractLsb'_eq_extractLsb' rfl
    have hall : label.extractLsb' 2 30 ++ label.extractLsb' 0 2 = label.extractLsb' 0 32 :=
      BitVec.extractLsb'_append_extractLsb'_eq_extractLsb' rfl
    rw [← hregion, ← haligned, hhigh, hall, BitVec.extractLsb'_eq_self]
  · rintro rfl
    refine ⟨⟨?_, BitVec.extractLsb'_append_eq_right⟩, ?_⟩
    · rw [BitVec.extractLsb'_append_eq_of_le (by decide)]
      exact BitVec.extractLsb'_append_eq_left
    · rw [BitVec.extractLsb'_append_eq_of_le (by decide)]
      exact BitVec.extractLsb'_append_eq_right

/-- The assembled field as a number. -/
theorem toNat_of_assembleJump (h : assembleJump pc label = some f) :
    f.toNat = label.toNat / 4 % 2 ^ 26 := by
  rw [assembleJump, Option.ite_none_right_eq_some, Option.some.injEq] at h
  obtain ⟨-, rfl⟩ := h
  rw [BitVec.extractLsb'_toNat, Nat.shiftRight_eq_div_pow]

/-- The high four bits of a word are its 256 MiB region. -/
theorem extractLsb'_region_eq_iff (a b : Word) :
    a.extractLsb' 28 4 = b.extractLsb' 28 4 ↔ a.toNat / 2 ^ 28 = b.toNat / 2 ^ 28 := by
  have ha := a.isLt
  have hb := b.isLt
  rw [← BitVec.toNat_inj, BitVec.extractLsb'_toNat, BitVec.extractLsb'_toNat,
    Nat.shiftRight_eq_div_pow, Nat.shiftRight_eq_div_pow]
  omega

/-- The low two bits of an address are zero exactly if it is word-aligned. -/
theorem extractLsb'_low_eq_zero_iff (a : Word) : a.extractLsb' 0 2 = 0#2 ↔ a.toNat % 4 = 0 := by
  rw [← BitVec.toNat_inj, BitVec.extractLsb'_toNat]
  simp

/-- The assembler accepts a label exactly if it is aligned and in the region of `pc + 4`. -/
theorem exists_assembleJump_iff : (∃ g, assembleJump pc label = some g) ↔
    label.toNat % 4 = 0 ∧ label.toNat / 2 ^ 28 = (pc + 4#32).toNat / 2 ^ 28 := by
  rw [← extractLsb'_region_eq_iff, ← extractLsb'_low_eq_zero_iff]
  simp [assembleJump, and_comm]

end Jump

/-- Settles O55: the assembled field is the one field whose jump reaches the label. -/
theorem jumpLabelRoundTrip : Obligations.JumpLabelRoundTrip := fun _ _ _ =>
  ⟨fun h => ⟨assembleJump_eq_some_iff.1 h, toNat_of_assembleJump h⟩, assembleJump_eq_some_iff.2 rfl,
    exists_assembleJump_iff⟩

end Sys2Proof.Machine
end

section
/-! PROOFS. Arithmetic, logic and comparison (spec/40_rtype_alu.md, spec/44_itype_alu.md): each
instruction is one of two shapes, a register write or a checked register write, and what it writes is
said in integers or bit by bit. -/

namespace Sys2Proof.Machine

section Rules

variable {i : Instr} {s : State}

/-- The word of an instruction is its encoding, both ways. -/
theorem coded_encode (i : Instr) : Coded (encode i) i := ⟨decodeWord_encode i, rfl⟩

/-! ### The two shapes -/

/-- An instruction that raises nothing completes with the value it writes. -/
theorem setsGpr_of_finish {rd : Reg} {v : Word} (hexec : exec i s = (s.writeGpr rd v).finish) :
    SetsGpr i s rd v :=
  ⟨_, hexec, writesGpr_advance s rd v⟩

/-- A checked instruction whose condition is the failure of `P` completes exactly under `P` (R131). -/
theorem setsGpr_or_raises_of_checked {P : Prop} {c : Bool} {e : Exception} {rd : Reg} {v : Word}
    (hexec : exec i s = s.checked c e fun u => u.writeGpr rd v) (hc : c = true ↔ ¬ P) :
    (P → SetsGpr i s rd v) ∧ (¬ P → Raises i s e) := by
  constructor
  · intro hP
    have hfalse : c = false := by simpa [hP] using hc
    exact ⟨_, hexec.trans (State.checked_completes e _ hfalse), writesGpr_advance s rd v⟩
  · intro hP
    exact hexec.trans (State.checked_raises e _ (hc.2 hP))

/-! ### Words as integers -/

/-- Addition of words is addition of signed values, modulo 2^32. -/
theorem add_eq_ofInt (a b : Word) : a + b = BitVec.ofInt 32 (a.toInt + b.toInt) := by
  rw [BitVec.ofInt_add, BitVec.ofInt_toInt, BitVec.ofInt_toInt]

/-- Subtraction of words is subtraction of signed values, modulo 2^32. -/
theorem sub_eq_ofInt (a b : Word) : a - b = BitVec.ofInt 32 (a.toInt - b.toInt) := by
  apply BitVec.eq_of_toInt_eq
  rw [BitVec.toInt_sub, BitVec.toInt_ofInt]

/-- Addition of words is addition of unsigned values, modulo 2^32. -/
theorem add_eq_ofNat (a b : Word) : a + b = BitVec.ofNat 32 ((a.toNat + b.toNat) % 2 ^ 32) := by
  apply BitVec.eq_of_toNat_eq
  simp

/-- Subtraction of words is subtraction of unsigned values, modulo 2^32. -/
theorem sub_eq_ofNat (a b : Word) :
    a - b = BitVec.ofNat 32 ((2 ^ 32 + a.toNat - b.toNat) % 2 ^ 32) := by
  have hb := b.isLt
  have hcomm : 2 ^ 32 - b.toNat + a.toNat = 2 ^ 32 + a.toNat - b.toNat := by omega
  apply BitVec.eq_of_toNat_eq
  rw [BitVec.toNat_sub, BitVec.toNat_ofNat, hcomm, Nat.mod_mod]

/-- The sign-extended immediate has the immediate's signed value (spec/30_encoding.md R89). -/
theorem immSigned_toInt (imm : Imm) : (immSigned imm).toInt = imm.toInt :=
  BitVec.toInt_signExtend_of_le (by decide)

/-- The sign-extended immediate as an unsigned value (spec/44_itype_alu.md R183). -/
theorem immSigned_toNat (imm : Imm) : ((immSigned imm).toNat : Int) = imm.toInt % 2 ^ 32 := by
  simpa [displaced] using displaced_toNat 0#32 imm

/-- The signed comparison is of the two's-complement values (R128). -/
theorem setLessSigned_eq_ite (a b : Word) :
    setLessSigned a b = if a.toInt < b.toInt then 1#32 else 0#32 := by
  simp [setLessSigned, boolWord, BitVec.slt]

/-- The unsigned comparison is of the non-negative values (R129). -/
theorem setLessUnsigned_eq_ite (a b : Word) :
    setLessUnsigned a b = if a.toNat < b.toNat then 1#32 else 0#32 := by
  simp [setLessUnsigned, boolWord, BitVec.ult]

/-! ### The instructions that check for overflow -/

/-- `sub` is the shared checked instruction (R122). -/
theorem exec_sub (s : State) (rd rs rt : Reg) :
    exec (.sub rd rs rt) s =
      s.checked (subOverflows (s.readGpr rs) (s.readGpr rt)) .integerOverflow fun u =>
        u.writeGpr rd (s.readGpr rs - s.readGpr rt) := rfl

/-- `addi` is the shared checked instruction (spec/44_itype_alu.md R180). -/
theorem exec_addi (s : State) (rt rs : Reg) (imm : Imm) :
    exec (.addi rt rs imm) s =
      s.checked (addOverflows (s.readGpr rs) (immSigned imm)) .integerOverflow fun u =>
        u.writeGpr rt (s.readGpr rs + immSigned imm) := rfl

/-- `add` writes the exact sum, or raises if it does not fit (R120). -/
theorem setsGpr_or_raises_add (s : State) (rd rs rt : Reg) :
    (Fits32 ((s.readGpr rs).toInt + (s.readGpr rt).toInt) → SetsGpr (.add rd rs rt) s rd
      (BitVec.ofInt 32 ((s.readGpr rs).toInt + (s.readGpr rt).toInt))) ∧
    (¬ Fits32 ((s.readGpr rs).toInt + (s.readGpr rt).toInt) →
      Raises (.add rd rs rt) s .integerOverflow) := by
  rw [← add_eq_ofInt]
  exact setsGpr_or_raises_of_checked (exec_add s rd rs rt) (addOverflows_iff _ _)

/-- `sub` writes the exact difference, or raises if it does not fit (R122). -/
theorem setsGpr_or_raises_sub (s : State) (rd rs rt : Reg) :
    (Fits32 ((s.readGpr rs).toInt - (s.readGpr rt).toInt) → SetsGpr (.sub rd rs rt) s rd
      (BitVec.ofInt 32 ((s.readGpr rs).toInt - (s.readGpr rt).toInt))) ∧
    (¬ Fits32 ((s.readGpr rs).toInt - (s.readGpr rt).toInt) →
      Raises (.sub rd rs rt) s .integerOverflow) := by
  rw [← sub_eq_ofInt]
  exact setsGpr_or_raises_of_checked (exec_sub s rd rs rt) (subOverflows_iff _ _)

/-- `addi` writes the exact sum, or raises if it does not fit (spec/44_itype_alu.md R180). -/
theorem setsGpr_or_raises_addi (s : State) (rt rs : Reg) (imm : Imm) :
    (Fits32 ((s.readGpr rs).toInt + imm.toInt) → SetsGpr (.addi rt rs imm) s rt
      (BitVec.ofInt 32 ((s.readGpr rs).toInt + imm.toInt))) ∧
    (¬ Fits32 ((s.readGpr rs).toInt + imm.toInt) → Raises (.addi rt rs imm) s .integerOverflow) := by
  rw [← immSigned_toInt, ← add_eq_ofInt]
  exact setsGpr_or_raises_of_checked (exec_addi s rt rs imm) (addOverflows_iff _ _)

/-! ### The instructions that raise nothing -/

variable (s) (rd rs rt : Reg) (imm : Imm)

/-- `addu` writes the sum of words (R121). -/
theorem setsGpr_addu : SetsGpr (.addu rd rs rt) s rd (s.readGpr rs + s.readGpr rt) :=
  setsGpr_of_finish rfl

/-- `subu` writes the difference of words (R123). -/
theorem setsGpr_subu : SetsGpr (.subu rd rs rt) s rd (s.readGpr rs - s.readGpr rt) :=
  setsGpr_of_finish rfl

/-- `addiu` writes the sum with the sign-extended immediate (spec/44_itype_alu.md R181). -/
theorem setsGpr_addiu : SetsGpr (.addiu rt rs imm) s rt (s.readGpr rs + immSigned imm) :=
  setsGpr_of_finish rfl

/-- `and` writes the bitwise and (R124). -/
theorem setsGpr_and : SetsGpr (.and rd rs rt) s rd (s.readGpr rs &&& s.readGpr rt) :=
  setsGpr_of_finish rfl

/-- `or` writes the bitwise or (R125). -/
theorem setsGpr_or : SetsGpr (.or rd rs rt) s rd (s.readGpr rs ||| s.readGpr rt) :=
  setsGpr_of_finish rfl

/-- `xor` writes the bitwise exclusive or (R126). -/
theorem setsGpr_xor : SetsGpr (.xor rd rs rt) s rd (s.readGpr rs ^^^ s.readGpr rt) :=
  setsGpr_of_finish rfl

/-- `nor` writes the complement of the bitwise or (R127). -/
theorem setsGpr_nor : SetsGpr (.nor rd rs rt) s rd (~~~(s.readGpr rs ||| s.readGpr rt)) :=
  setsGpr_of_finish rfl

/-- `slt` writes the signed comparison of two registers (R128). -/
theorem setsGpr_slt : SetsGpr (.slt rd rs rt) s rd (setLessSigned (s.readGpr rs) (s.readGpr rt)) :=
  setsGpr_of_finish rfl

/-- `sltu` writes the unsigned comparison of two registers (R129). -/
theorem setsGpr_sltu :
    SetsGpr (.sltu rd rs rt) s rd (setLessUnsigned (s.readGpr rs) (s.readGpr rt)) :=
  setsGpr_of_finish rfl

/-- `slti` writes the signed comparison with the sign-extended immediate (spec/44_itype_alu.md R182). -/
theorem setsGpr_slti :
    SetsGpr (.slti rt rs imm) s rt (setLessSigned (s.readGpr rs) (immSigned imm)) :=
  setsGpr_of_finish rfl

/-- `sltiu` writes the unsigned comparison with the sign-extended immediate (R183). -/
theorem setsGpr_sltiu :
    SetsGpr (.sltiu rt rs imm) s rt (setLessUnsigned (s.readGpr rs) (immSigned imm)) :=
  setsGpr_of_finish rfl

end Rules

/-! ### The obligations -/

/-- Settles O24: the overflow conditions are exactly that the exact result does not fit, and a result
that fits is the word the instruction writes. -/
theorem overflowDetectingArithmetic : Obligations.OverflowDetectingArithmetic := by
  intro s rd rs rt imm
  obtain ⟨add_fits, add_raises⟩ := setsGpr_or_raises_add s rd rs rt
  obtain ⟨sub_fits, sub_raises⟩ := setsGpr_or_raises_sub s rd rs rt
  obtain ⟨addi_fits, addi_raises⟩ := setsGpr_or_raises_addi s rt rs imm
  exact ⟨coded_encode (.add rd rs rt), coded_encode (.sub rd rs rt), coded_encode (.addi rt rs imm),
    add_fits, add_raises, sub_fits, sub_raises, addi_fits, addi_raises⟩

/-- Settles O25: the sum and difference of words are those of the numbers, modulo 2^32. -/
theorem wrappingArithmetic : Obligations.WrappingArithmetic := by
  intro s rd rs rt imm
  refine ⟨coded_encode (.addu rd rs rt), coded_encode (.subu rd rs rt),
    coded_encode (.addiu rt rs imm), ?addu, ?subu, ?addiu⟩
  case addu => rw [← add_eq_ofNat]; exact setsGpr_addu s rd rs rt
  case subu => rw [← sub_eq_ofNat]; exact setsGpr_subu s rd rs rt
  case addiu => rw [← immSigned_toInt, ← add_eq_ofInt]; exact setsGpr_addiu s rs rt imm

/-- Settles O26: each operation on words is its function on every bit. -/
theorem bitwiseRegisterLogic : Obligations.BitwiseRegisterLogic := fun s rd rs rt =>
  ⟨coded_encode (.and rd rs rt), coded_encode (.or rd rs rt), coded_encode (.xor rd rs rt),
    coded_encode (.nor rd rs rt),
    ⟨_, setsGpr_and s rd rs rt, fun _ => BitVec.getLsbD_and⟩,
    ⟨_, setsGpr_or s rd rs rt, fun _ => BitVec.getLsbD_or⟩,
    ⟨_, setsGpr_xor s rd rs rt, fun _ => BitVec.getLsbD_xor⟩,
    ⟨_, setsGpr_nor s rd rs rt, fun k hk => by
      rw [BitVec.getLsbD_not, BitVec.getLsbD_or, decide_eq_true hk, Bool.true_and]⟩⟩

/-- Settles O28: the comparisons are of the numbers themselves, and the sign-extended immediate is a
number of the kind compared. -/
theorem setOnLessThan : Obligations.SetOnLessThan := by
  intro s rd rs rt imm
  refine ⟨coded_encode (.slt rd rs rt), coded_encode (.sltu rd rs rt), coded_encode (.slti rt rs imm),
    coded_encode (.sltiu rt rs imm), ?slt, ?sltu, ?slti, ?sltiu⟩
  case slt => rw [← setLessSigned_eq_ite]; exact setsGpr_slt s rd rs rt
  case sltu => rw [← setLessUnsigned_eq_ite]; exact setsGpr_sltu s rd rs rt
  case slti => rw [← immSigned_toInt, ← setLessSigned_eq_ite]; exact setsGpr_slti s rs rt imm
  case sltiu =>
    simp only [← immSigned_toNat, Nat.cast_lt, ← setLessUnsigned_eq_ite]
    exact setsGpr_sltiu s rs rt imm

end Sys2Proof.Machine
end

section
/-! PROOFS. Shifts (spec/41_rtype_shift.md): the value a shift by a number of bits leaves, said once for
every count; the immediate and the variable shifts differ only in where the count comes from. -/

namespace Sys2Proof.Machine

/-! ### A shift as multiplication or floor division -/

section Values

variable (x : Word) (n : Nat)

/-- A left shift multiplies by a power of two, modulo 2^32 (R140). -/
theorem toNat_shiftLeft_eq_mul_pow : (x <<< n).toNat = x.toNat * 2 ^ n % 2 ^ 32 := by
  rw [BitVec.toNat_shiftLeft, Nat.shiftLeft_eq]

/-- A logical right shift divides the unsigned value by a power of two (R141). -/
theorem toNat_ushiftRight_eq_div_pow : (x >>> n).toNat = x.toNat / 2 ^ n := by
  rw [BitVec.toNat_ushiftRight, Nat.shiftRight_eq_div_pow]

/-- An arithmetic right shift is the floor of the signed value over a power of two (R142). -/
theorem toInt_sshiftRight_eq_div_pow : (x.sshiftRight n).toInt = x.toInt / 2 ^ n := by
  rw [BitVec.toInt_sshiftRight, Int.shiftRight_eq_div_pow, Nat.cast_pow, Nat.cast_ofNat]

/-- The low five bits are the remainder modulo 32 (R146). -/
theorem variableCount_toNat : (variableCount x).toNat = x.toNat % 32 :=
  BitVec.extractLsb'_toNat 0 5 x

end Values

/-! ### What each shift writes -/

section Rules

variable (s : State) (rd rt rs : Reg) (sa : Shamt)

/-- `sll` writes the left shift by `sa` (R140). -/
theorem setsGpr_sll : SetsGpr (.sll rd rt sa) s rd (s.readGpr rt <<< sa.toNat) :=
  setsGpr_of_finish rfl

/-- `srl` writes the logical right shift by `sa` (R141). -/
theorem setsGpr_srl : SetsGpr (.srl rd rt sa) s rd (s.readGpr rt >>> sa.toNat) :=
  setsGpr_of_finish rfl

/-- `sra` writes the arithmetic right shift by `sa` (R142). -/
theorem setsGpr_sra : SetsGpr (.sra rd rt sa) s rd ((s.readGpr rt).sshiftRight sa.toNat) :=
  setsGpr_of_finish rfl

/-- `sllv` writes the left shift by `x[rs]` modulo 32 (R143). -/
theorem setsGpr_sllv :
    SetsGpr (.sllv rd rt rs) s rd (s.readGpr rt <<< ((s.readGpr rs).toNat % 32)) := by
  rw [← variableCount_toNat]
  exact setsGpr_of_finish rfl

/-- `srlv` writes the logical right shift by `x[rs]` modulo 32 (R144). -/
theorem setsGpr_srlv :
    SetsGpr (.srlv rd rt rs) s rd (s.readGpr rt >>> ((s.readGpr rs).toNat % 32)) := by
  rw [← variableCount_toNat]
  exact setsGpr_of_finish rfl

/-- `srav` writes the arithmetic right shift by `x[rs]` modulo 32 (R145). -/
theorem setsGpr_srav :
    SetsGpr (.srav rd rt rs) s rd ((s.readGpr rt).sshiftRight ((s.readGpr rs).toNat % 32)) := by
  rw [← variableCount_toNat]
  exact setsGpr_of_finish rfl

end Rules

/-! ### The obligations -/

/-- Settles O29: each immediate shift writes its shift by `sa`, whose value is the stated product or
quotient. -/
theorem immediateShifts : Obligations.ImmediateShifts := fun s rd rt sa =>
  ⟨coded_encode (.sll rd rt sa), coded_encode (.srl rd rt sa), coded_encode (.sra rd rt sa),
    ⟨_, setsGpr_sll s rd rt sa, toNat_shiftLeft_eq_mul_pow _ _⟩,
    ⟨_, setsGpr_srl s rd rt sa, toNat_ushiftRight_eq_div_pow _ _⟩,
    ⟨_, setsGpr_sra s rd rt sa, toInt_sshiftRight_eq_div_pow _ _⟩⟩

/-- Settles O30: the same values as the immediate shifts, at the count `x[rs]` modulo 32. -/
theorem variableShifts : Obligations.VariableShifts := fun s rd rt rs =>
  ⟨coded_encode (.sllv rd rt rs), coded_encode (.srlv rd rt rs), coded_encode (.srav rd rt rs),
    ⟨_, setsGpr_sllv s rd rt rs, toNat_shiftLeft_eq_mul_pow _ _⟩,
    ⟨_, setsGpr_srlv s rd rt rs, toNat_ushiftRight_eq_div_pow _ _⟩,
    ⟨_, setsGpr_srav s rd rt rs, toInt_sshiftRight_eq_div_pow _ _⟩⟩

end Sys2Proof.Machine
end

section
/-! PROOFS. Multiply, divide and the HI/LO moves (spec/42_rtype_muldiv.md): the moves write one
register, multiply writes the two words of a product that fits in 64 bits, and divide writes the
quotient and remainder of words (`sdiv` and `srem`, `/` and `%`) or two draws. -/

namespace Sys2Proof.Machine

/-! ### Products and quotients as numbers -/

section Values

variable (a b : Word) (p : BitVec 64)

/-- A 64-bit value is its high word followed by its low word (R150). -/
theorem append_extractLsb'_words : p.extractLsb' 32 32 ++ p.extractLsb' 0 32 = p :=
  (BitVec.extractLsb'_append_extractLsb'_eq_extractLsb' rfl).trans BitVec.extractLsb'_eq_self

/-- The product of two signed words fits in 64 bits (R150). -/
theorem product64_toInt : (product64 (a.toInt * b.toInt)).toInt = a.toInt * b.toInt := by
  have hlo : -2 ^ 62 ≤ a.toInt * b.toInt := BitVec.le_toInt_mul_toInt
  have hhi : a.toInt * b.toInt ≤ 2 ^ 62 := BitVec.toInt_mul_toInt_le
  exact BitVec.toInt_ofInt_eq_self (by decide) (by omega) (by omega)

/-- The product of two unsigned words fits in 64 bits (R151). -/
theorem product64_toNat : (product64 (a.toNat * b.toNat : Nat)).toNat = a.toNat * b.toNat := by
  rw [product64, BitVec.ofInt_natCast, BitVec.toNat_ofNat]
  exact Nat.mod_eq_of_lt BitVec.toNat_mul_toNat_lt

/-- The word of the quotient rounded toward zero is the signed quotient of words (R152). -/
theorem ofInt_tdiv_eq_sdiv : BitVec.ofInt 32 (a.toInt.tdiv b.toInt) = a.sdiv b := by
  apply BitVec.eq_of_toInt_eq
  rw [BitVec.toInt_ofInt, BitVec.toInt_sdiv]

/-- The word of what the quotient leaves of the dividend is the signed remainder of words (R152). -/
theorem ofInt_sub_tdiv_mul_eq_srem :
    BitVec.ofInt 32 (a.toInt - a.toInt.tdiv b.toInt * b.toInt) = a.srem b := by
  rw [mul_comm, ← Int.tmod_def, ← BitVec.toInt_srem, BitVec.ofInt_toInt]

/-- The word of the floor quotient is the unsigned quotient of words (R153). -/
theorem ofNat_div_eq_udiv : BitVec.ofNat 32 (a.toNat / b.toNat) = a / b := by
  rw [← BitVec.toNat_udiv, BitVec.ofNat_toNat, BitVec.setWidth_eq]

/-- The word of what the quotient leaves of the dividend is the unsigned remainder of words (R153). -/
theorem ofNat_sub_div_mul_eq_umod :
    BitVec.ofNat 32 (a.toNat - a.toNat / b.toNat * b.toNat) = a % b := by
  rw [← Nat.mod_eq_sub_div_mul, ← BitVec.toNat_umod, BitVec.ofNat_toNat, BitVec.setWidth_eq]

variable {a b}

/-- Signed division without overflow (R152): the quotient and remainder make up the dividend, and the
remainder is smaller than the divisor and has the dividend's sign. -/
theorem sdiv_srem_spec (hb : b ≠ 0#32) (hover : ¬ (a = 0x80000000#32 ∧ b = 0xFFFFFFFF#32)) :
    a.toInt = (a.sdiv b).toInt * b.toInt + (a.srem b).toInt ∧
    (a.srem b).toInt.natAbs < b.toInt.natAbs ∧
    (0 ≤ a.toInt → 0 ≤ (a.srem b).toInt) ∧ (a.toInt ≤ 0 → (a.srem b).toInt ≤ 0) := by
  have hquot : (a.sdiv b).toInt = a.toInt.tdiv b.toInt :=
    BitVec.toInt_sdiv_of_ne_or_ne a b (not_and_or.1 hover)
  have hpos : 0 < b.toInt.natAbs := Int.natAbs_pos.2 fun h => hb (BitVec.toInt_inj.1 h)
  rw [hquot, BitVec.toInt_srem]
  refine ⟨(Int.tdiv_mul_add_tmod _ _).symm, ?smaller, Int.tmod_nonneg _, fun hneg => ?nonpos⟩
  case smaller =>
    rw [Int.natAbs_tmod]
    exact Nat.mod_lt _ hpos
  case nonpos =>
    have hflip : 0 ≤ (-a.toInt).tmod b.toInt := Int.tmod_nonneg _ (by omega)
    rw [Int.neg_tmod] at hflip
    omega

/-- Unsigned division (R153): the quotient and remainder make up the dividend, and the remainder is
smaller than the divisor. -/
theorem udiv_umod_spec (hb : b ≠ 0#32) :
    a.toNat = (a / b).toNat * b.toNat + (a % b).toNat ∧ (a % b).toNat < b.toNat := by
  have hpos : 0 < b.toNat := Nat.pos_of_ne_zero fun h => hb (BitVec.toNat_inj.1 h)
  rw [BitVec.toNat_udiv, BitVec.toNat_umod]
  exact ⟨(Nat.div_add_mod' _ _).symm, Nat.mod_lt _ hpos⟩

end Values

/-! ### What each instruction writes -/

section Rules

variable {i : Instr} {s : State}

/-- An instruction that raises nothing and writes HI and LO completes with what it writes. -/
theorem setsHiLo_of_finish {hi lo : Word}
    (hexec : exec i s = ((s.writeHi hi).writeLo lo).finish) : SetsHiLo i s hi lo := by
  obtain ⟨hw, hm⟩ := writesHiLo_advance s hi lo s.draws
  exact ⟨_, hexec, hw, rfl, hm⟩

/-- A division by zero leaves LO and HI two draws, and counts them (R159; log 10). -/
theorem draws_of_drawQuotient (hexec : exec i s = s.drawQuotient.finish) :
    ∃ t, exec i s = .next t ∧
      WritesHiLo (Config.any32 (s.draws + 1)) (Config.any32 s.draws) s t ∧
      t.draws = s.draws + 2 ∧ MovesOn s t := by
  obtain ⟨hw, hm⟩ := writesHiLo_advance s _ _ (s.draws + 2)
  exact ⟨_, hexec, hw, rfl, hm⟩

variable (s) (rd rs rt : Reg)

/-- `mult` writes the two words of the signed product (R150). -/
theorem setsHiLo_mult :
    SetsHiLo (.mult rs rt) s
      ((product64 ((s.readGpr rs).toInt * (s.readGpr rt).toInt)).extractLsb' 32 32)
      ((product64 ((s.readGpr rs).toInt * (s.readGpr rt).toInt)).extractLsb' 0 32) :=
  setsHiLo_of_finish rfl

/-- `multu` writes the two words of the unsigned product (R151). -/
theorem setsHiLo_multu :
    SetsHiLo (.multu rs rt) s
      ((product64 ((s.readGpr rs).toNat * (s.readGpr rt).toNat : Nat)).extractLsb' 32 32)
      ((product64 ((s.readGpr rs).toNat * (s.readGpr rt).toNat : Nat)).extractLsb' 0 32) :=
  setsHiLo_of_finish rfl

/-- `mfhi` copies HI (R154). -/
theorem setsGpr_mfhi : SetsGpr (.mfhi rd) s rd s.hi := setsGpr_of_finish rfl

/-- `mflo` copies LO (R155). -/
theorem setsGpr_mflo : SetsGpr (.mflo rd) s rd s.lo := setsGpr_of_finish rfl

/-- `mthi` writes HI and leaves LO (R156). -/
theorem setsHiLo_mthi : SetsHiLo (.mthi rs) s (s.readGpr rs) s.lo := setsHiLo_of_finish rfl

/-- `mtlo` writes LO and leaves HI (R157). -/
theorem setsHiLo_mtlo : SetsHiLo (.mtlo rs) s s.hi (s.readGpr rs) := setsHiLo_of_finish rfl

variable {s rs rt}

/-- `div` by zero draws (R159). -/
theorem exec_div_zero (h : s.readGpr rt = 0#32) :
    exec (.div rs rt) s = s.drawQuotient.finish :=
  if_pos (by rw [h]; rfl)

/-- `divu` by zero draws (R159). -/
theorem exec_divu_zero (h : s.readGpr rt = 0#32) :
    exec (.divu rs rt) s = s.drawQuotient.finish :=
  if_pos (by rw [h]; rfl)

/-- `div` by another divisor writes the signed quotient and remainder of words, the overflowing
-2^31 / -1 included (R152). -/
theorem setsHiLo_div (h : s.readGpr rt ≠ 0#32) :
    SetsHiLo (.div rs rt) s ((s.readGpr rs).srem (s.readGpr rt))
      ((s.readGpr rs).sdiv (s.readGpr rt)) := by
  rw [← ofInt_tdiv_eq_sdiv, ← ofInt_sub_tdiv_mul_eq_srem]
  exact setsHiLo_of_finish (if_neg fun h0 => h (BitVec.toInt_inj.1 h0))

/-- `divu` by another divisor writes the unsigned quotient and remainder of words (R153). -/
theorem setsHiLo_divu (h : s.readGpr rt ≠ 0#32) :
    SetsHiLo (.divu rs rt) s (s.readGpr rs % s.readGpr rt) (s.readGpr rs / s.readGpr rt) := by
  rw [← ofNat_div_eq_udiv, ← ofNat_sub_div_mul_eq_umod]
  exact setsHiLo_of_finish (if_neg fun h0 => h (BitVec.toNat_inj.1 h0))

/-- `div` of -2^31 by -1 leaves the quotient truncated to 32 bits, and no remainder (R152). -/
theorem setsHiLo_div_overflow (hs : s.readGpr rs = 0x80000000#32) (ht : s.readGpr rt = 0xFFFFFFFF#32) :
    SetsHiLo (.div rs rt) s 0#32 0x80000000#32 := by
  have hne : s.readGpr rt ≠ 0#32 := by rw [ht]; decide
  have h := setsHiLo_div (rs := rs) hne
  rwa [hs, ht] at h

end Rules

/-! ### The obligations -/

/-- Settles O31: HI and LO are the two words of a product that fits in 64 bits. -/
theorem exactProducts : Obligations.ExactProducts := fun s rs rt =>
  ⟨coded_encode (.mult rs rt), coded_encode (.multu rs rt),
    ⟨_, _, setsHiLo_mult s rs rt, by rw [append_extractLsb'_words, product64_toInt]⟩,
    ⟨_, _, setsHiLo_multu s rs rt, by rw [append_extractLsb'_words, product64_toNat]⟩⟩

/-- Settles O32: HI and LO are the signed remainder and quotient of words, or two draws. -/
theorem signedDivision : Obligations.SignedDivision := fun _ rs rt =>
  ⟨coded_encode (.div rs rt), fun hb hover => ⟨_, _, setsHiLo_div hb, sdiv_srem_spec hb hover⟩,
    setsHiLo_div_overflow, fun h0 => draws_of_drawQuotient (exec_div_zero h0)⟩

/-- Settles O33: HI and LO are the unsigned remainder and quotient of words, or two draws. -/
theorem unsignedDivision : Obligations.UnsignedDivision := fun _ rs rt =>
  ⟨coded_encode (.divu rs rt), fun hb => ⟨_, _, setsHiLo_divu hb, udiv_umod_spec hb⟩,
    fun h0 => draws_of_drawQuotient (exec_divu_zero h0)⟩

/-- Settles O34: each move is a single register write, and the written state names the other of HI and
LO unchanged. -/
theorem hiLoMoves : Obligations.HiLoMoves := fun s rd rs =>
  ⟨coded_encode (.mfhi rd), coded_encode (.mflo rd), coded_encode (.mthi rs), coded_encode (.mtlo rs),
    setsGpr_mfhi s rd, setsGpr_mflo s rd, setsHiLo_mthi s rs, setsHiLo_mtlo s rs⟩

end Sys2Proof.Machine
end

section
/-! PROOFS. Register jumps and system instructions (spec/43_rtype_jump_system.md): the link by the value
of `DELAY_SLOTS`, a jump to a misaligned address followed by the fetch that raises, and the two
instructions that always raise. -/

namespace Sys2Proof.Machine

section Rules

variable {s : State}

/-- Without delay slots the link is `pc + 4` (R171). -/
theorem State.linkValue_of_noSlots (h : s.cfg.delaySlots = false) : s.linkValue = s.pc + 4#32 :=
  if_neg (Bool.eq_false_iff.1 h)

/-- With delay slots the link is `pc + 8`, the address after the slot (spec/45_itype_branch.md R202). -/
theorem State.linkValue_of_slots (h : s.cfg.delaySlots = true) : s.linkValue = s.pc + 8#32 := if_pos h

/-- A machine without delay slots is in none. -/
theorem State.not_inSlot_of_noSlots (h : s.cfg.delaySlots = false) : ¬ s.InSlot :=
  fun ⟨hslots, _⟩ => Bool.eq_false_iff.1 h hslots

/-- A jump completes even to a misaligned address; without delay slots the next step is the fetch that
raises (R170, spec/20_memory.md R60). -/
theorem Jumps.next_fetch_raises {i : Instr} {g : Word} (h : Jumps i s g) (hrun : s.status = .running)
    (hslots : s.cfg.delaySlots = false) (hg : g.toNat % 4 ≠ 0) :
    ∃ t, exec i s = .next t ∧ step t = .next (t.faulted (.addressError .fetch g)) := by
  obtain ⟨t, hexec, ⟨-, -, -, ⟨-, -, hstatus⟩, -, -⟩, hnow, -⟩ := h
  obtain ⟨rfl, -⟩ := hnow hslots
  exact ⟨t, hexec, step_of_checkFetch (hstatus.trans hrun) (State.checkFetch_misaligned t hg)⟩

/-- `syscall` raises from every state (R172). -/
theorem raises_syscall (s : State) : Raises .syscall s .systemCall := State.raise_eq s .systemCall

/-- `break` raises from every state (R173). -/
theorem raises_brk (s : State) : Raises .brk s .breakpoint := State.raise_eq s .breakpoint

end Rules

/-! ### The obligations -/

/-- Settles O35: both jumps take the register's value before any write, the link is `linkValue`, and
only the fetch after the jump looks at the alignment of the target. -/
theorem registerJumps : Obligations.RegisterJumps := by
  refine fun s rd rs => ⟨coded_encode (.jr rs), coded_encode (.jalr rd rs),
    fun hs => ⟨jumps_jr rs hs, fun hslots => ?_, fun hslots => ?_⟩, fun hrun hslots hmis => ?_⟩
  · exact State.linkValue_of_noSlots hslots ▸ linksAndJumps_jalr rd rs hs
  · exact State.linkValue_of_slots hslots ▸ linksAndJumps_jalr rd rs hs
  · exact (jumps_jr rs (State.not_inSlot_of_noSlots hslots)).next_fetch_raises hrun hslots hmis

/-- Settles O36: both instructions are the shared `raise`, which writes only `status`. -/
theorem systemCallAndBreakpoint : Obligations.SystemCallAndBreakpoint := fun s =>
  ⟨coded_encode .syscall, coded_encode .brk, raises_syscall s, raises_brk s⟩

end Sys2Proof.Machine
end

section
/-! PROOFS. Logic with an immediate (spec/44_itype_alu.md): the zero-extended and the upper immediate bit
by bit, then what each instruction writes. -/

namespace Sys2Proof.Machine

/-! ### The bits of an immediate -/

section Values

variable (imm : Imm) (k : Nat)

/-- The zero-extended immediate is the immediate below bit 16 and zero from there on (R89). -/
theorem immZero_getLsbD : (immZero imm).getLsbD k = (decide (k < 16) && imm.getLsbD k) := by
  rw [immZero, BitVec.getLsbD_setWidth]
  by_cases hk : k < 16
  · have hword : k < 32 := by omega
    rw [decide_eq_true hk, decide_eq_true hword]
  · have hzero : imm.getLsbD k = false := BitVec.getLsbD_of_ge imm k (not_lt.1 hk)
    rw [hzero, Bool.and_false, Bool.and_false]

variable {k}

/-- The low half of the upper immediate is zero (R187). -/
theorem immUpper_getLsbD_low (hk : k < 16) : (immUpper imm).getLsbD k = false := by
  rw [immUpper, BitVec.getLsbD_append, if_pos hk, BitVec.getLsbD_zero]

variable (k)

/-- The high half of the upper immediate is the immediate (R187). -/
theorem immUpper_getLsbD_high : (immUpper imm).getLsbD (16 + k) = imm.getLsbD k := by
  have hk : ¬ 16 + k < 16 := by omega
  rw [immUpper, BitVec.getLsbD_append, if_neg hk, Nat.add_sub_cancel_left]

end Values

/-! ### What each instruction writes -/

section Rules

variable (s : State) (rt rs : Reg) (imm : Imm)

/-- `andi` writes the bitwise and with the zero-extended immediate (R184). -/
theorem setsGpr_andi : SetsGpr (.andi rt rs imm) s rt (s.readGpr rs &&& immZero imm) :=
  setsGpr_of_finish rfl

/-- `ori` writes the bitwise or with the zero-extended immediate (R185). -/
theorem setsGpr_ori : SetsGpr (.ori rt rs imm) s rt (s.readGpr rs ||| immZero imm) :=
  setsGpr_of_finish rfl

/-- `xori` writes the bitwise exclusive or with the zero-extended immediate (R186). -/
theorem setsGpr_xori : SetsGpr (.xori rt rs imm) s rt (s.readGpr rs ^^^ immZero imm) :=
  setsGpr_of_finish rfl

/-- `lui` writes the immediate over sixteen zeros (R187). -/
theorem setsGpr_lui : SetsGpr (.lui rt imm) s rt (immUpper imm) := setsGpr_of_finish rfl

end Rules

/-! ### The obligations -/

/-- Settles O27: each operation on words is its function on every bit, and the bits of the
zero-extended and of the upper immediate are those of the immediate or zero. -/
theorem bitwiseImmediateLogic : Obligations.BitwiseImmediateLogic := by
  intro s rt rs imm
  refine ⟨coded_encode (.andi rt rs imm), coded_encode (.ori rt rs imm),
    coded_encode (.xori rt rs imm), coded_encode (.lui rt imm),
    ⟨_, setsGpr_andi s rt rs imm, fun k => ?andi⟩, ⟨_, setsGpr_ori s rt rs imm, fun k => ?ori⟩,
    ⟨_, setsGpr_xori s rt rs imm, fun k => ?xori⟩,
    ⟨_, setsGpr_lui s rt imm, fun _ => immUpper_getLsbD_low imm,
      fun k _ => immUpper_getLsbD_high imm k⟩⟩
  case andi => rw [BitVec.getLsbD_and, immZero_getLsbD, Bool.and_left_comm, ← Bool.and_assoc]
  case ori => rw [BitVec.getLsbD_or, immZero_getLsbD]
  case xori => rw [BitVec.getLsbD_xor, immZero_getLsbD]

end Sys2Proof.Machine
end

section
/-! PROOFS. Branches and delay slots (spec/45_itype_branch.md): every branch is taken or falls through by
its condition, a transfer in a delay slot raises, and outside one the target waits for one instruction. -/

namespace Sys2Proof.Machine

section Rules

variable {i : Instr} {s t : State} {imm : Imm} {g : Word}

/-! ### The target of a branch (R200) -/

/-- A branch's target is `pc + 4` plus four times its signed offset. -/
theorem branchTarget_eq_add_ofInt (pc : Word) (imm : Imm) :
    branchTarget pc imm = pc + 4#32 + BitVec.ofInt 32 (4 * imm.toInt) := by
  rw [branchTarget, ← toInt_immSigned_shiftLeft, BitVec.ofInt_toInt]

/-- How far before and after `pc + 4` a branch reaches. -/
theorem four_mul_toInt_bounds (imm : Imm) : -131072 ≤ 4 * imm.toInt ∧ 4 * imm.toInt ≤ 131068 := by
  obtain ⟨-, hreach⟩ := (exists_immSigned_shiftLeft_eq_iff _).1 ⟨imm, rfl⟩
  rwa [toInt_immSigned_shiftLeft] at hreach

/-! ### The six branches (R201, R203 to R208) -/

/-- A branch outside a delay slot jumps exactly under its condition, and otherwise falls through. -/
theorem jumps_or_fallsThrough_of_branch {P : Prop} {ir : Word} {taken : Bool}
    (hexec : exec i s = s.branch ir taken imm) (htaken : taken = true ↔ P) (hs : ¬ s.InSlot) :
    (P → Jumps i s (s.pc + 4#32 + BitVec.ofInt 32 (4 * imm.toInt))) ∧ (¬ P → FallsThrough i s) := by
  rw [← htaken, ← branchTarget_eq_add_ofInt]
  have hcompletes := hexec.trans (State.control_completes ir _ hs)
  constructor
  · rintro rfl
    exact ⟨_, hcompletes, writesNothing_transferTo s _ hs⟩
  · intro hnot
    obtain rfl : taken = false := Bool.eq_false_iff.2 hnot
    exact ⟨_, hcompletes, writesNothing_advance s⟩

/-! ### Delay slots (R202) -/

/-- A transfer in a delay slot raises with its own word, whatever its condition and target are. -/
theorem raises_transfer_of_inSlot (hi : i.isTransfer = true) (hs : s.InSlot) :
    Raises i s (.reservedInstruction (encode i)) := by
  obtain ⟨f, hexec, -⟩ := exec_eq_control s hi
  exact hexec.trans (State.control_raises _ f hs)

/-- A transfer outside a delay slot completes. -/
theorem exec_transfer_of_not_inSlot (hi : i.isTransfer = true) (hs : ¬ s.InSlot) :
    ∃ t, exec i s = .next t ∧ t.status = s.status := by
  obtain ⟨f, hexec, hstatus⟩ := exec_eq_control s hi
  exact ⟨f s, hexec.trans (State.control_completes _ f hs), hstatus s⟩

/-- What leaves a pending target outside a delay slot is a taken transfer, and it goes on to the
instruction at `pc + 4`. -/
theorem ExecEffect.pc_of_pending (he : ExecEffect i s t) (hslots : s.cfg.delaySlots = true)
    (hs : ¬ s.InSlot) (hdelay : t.delay = some g) : t.pc = s.pc + 4#32 := by
  cases he with
  | raised e => exact absurd ⟨hslots, Option.ne_none_iff_exists'.2 ⟨g, hdelay⟩⟩ hs
  | jumped d => exact ((jumpsTo_transferTo d hs rfl rfl rfl).2 hslots).1
  | linked rd v d =>
    exact ((jumpsTo_transferTo (u := s.writeGpr rd v) d hs rfl rfl rfl).2 hslots).1
  | wroteGpr | wroteFpr | wroteHiLo | stored8 | stored16 | stored32 | movedOn => cases hdelay

/-- With a target pending, an instruction that is no transfer and does not raise moves on to it. -/
theorem pc_of_exec_inSlot (hi : i.isTransfer = false) (hslots : s.cfg.delaySlots = true)
    (hdelay : s.delay = some g) (hexec : exec i s = .next t) (hrun : t.status = .running) :
    t.pc = g ∧ t.delay = none := by
  obtain ⟨e, rfl⟩ | ⟨⟨hnone, hpc⟩, -, -⟩ := exec_movesOn hi hexec
  · cases hrun
  · rw [if_pos hslots, hdelay, Option.getD_some] at hpc
    exact ⟨hpc, hnone⟩

end Rules

/-! ### The obligations -/

/-- Settles O37: each comparison of words is of all their bits, and the target is that of every branch. -/
theorem equalityBranches : Obligations.EqualityBranches := by
  intro s rs rt imm
  refine ⟨coded_encode (.beq rs rt imm), coded_encode (.bne rs rt imm), fun hpc => ?aligned,
    four_mul_toInt_bounds imm, fun hs => ?branches⟩
  case aligned => exact branchTarget_eq_add_ofInt s.pc imm ▸ branchTarget_toNat_mod s.pc imm hpc
  case branches =>
    obtain ⟨hbeq, hbeqNot⟩ := jumps_or_fallsThrough_of_branch (i := .beq rs rt imm) rfl beq_iff_eq hs
    obtain ⟨hbne, hbneNot⟩ := jumps_or_fallsThrough_of_branch (i := .bne rs rt imm) rfl bne_iff_ne hs
    exact ⟨hbeq, hbeqNot, hbne, hbneNot⟩

/-- Settles O38: each branch decides its own signed comparison with zero. -/
theorem signBranches : Obligations.SignBranches := by
  refine fun s rs imm => ⟨coded_encode (.blez rs imm), coded_encode (.bgtz rs imm),
    coded_encode (.bltz rs imm), coded_encode (.bgez rs imm), fun hs => ?_⟩
  obtain ⟨hblez, hblezNot⟩ :=
    jumps_or_fallsThrough_of_branch (i := .blez rs imm) rfl decide_eq_true_iff hs
  obtain ⟨hbgtz, hbgtzNot⟩ :=
    jumps_or_fallsThrough_of_branch (i := .bgtz rs imm) rfl decide_eq_true_iff hs
  obtain ⟨hbltz, hbltzNot⟩ :=
    jumps_or_fallsThrough_of_branch (i := .bltz rs imm) rfl decide_eq_true_iff hs
  obtain ⟨hbgez, hbgezNot⟩ :=
    jumps_or_fallsThrough_of_branch (i := .bgez rs imm) rfl decide_eq_true_iff hs
  exact ⟨hblez, hblezNot, hbgtz, hbgtzNot, hbltz, hbltzNot, hbgez, hbgezNot⟩

/-- Settles O40: all ten are the shared transfer, which looks for a pending target first. -/
theorem transferInDelaySlotRaises : Obligations.TransferInDelaySlotRaises := fun _ _ hi =>
  ⟨raises_transfer_of_inSlot hi, exec_transfer_of_not_inSlot hi⟩

/-- Settles O41: the transfer leaves its target pending and the next instruction moves on to it. -/
theorem delaySlotRunsBeforeTarget : Obligations.DelaySlotRunsBeforeTarget := by
  intro i k s t u g hslots hs _ _ hexec hdelay hk hexecSlot hrun
  have he := exec_effect hexec
  obtain ⟨-, hcfg⟩ := he.sameCp0_cfg
  exact ⟨he.pc_of_pending hslots hs hdelay,
    pc_of_exec_inSlot hk (hcfg ▸ hslots) hdelay hexecSlot hrun⟩

end Sys2Proof.Machine
end

section
/-! PROOFS. Loads and stores (spec/46_itype_loadstore.md): the value a load reads as the number its bytes
form in either byte order, the bytes a store leaves as quotients of the register's value, and the shared
load and store that every instruction is. -/

namespace Sys2Proof.Machine

/-! ### Words, halfwords and bytes as numbers (spec/20_memory.md R56, R57, R63) -/

section Values

variable {m n : Nat}

/-- Bits put side by side are the number with the high part scaled past the low one. -/
theorem toNat_append_eq_add (x : BitVec m) (y : BitVec n) :
    (x ++ y).toNat = 2 ^ n * x.toNat + y.toNat := by
  rw [BitVec.toNat_append, ← Nat.shiftLeft_add_eq_or_of_lt y.isLt, Nat.shiftLeft_eq, Nat.mul_comm]

/-- The four bytes of a word as one number, the byte at the lowest address least significant (R56). -/
theorem wordOfBytes_little_toNat (b0 b1 b2 b3 : Byte) :
    (wordOfBytes .little b0 b1 b2 b3).toNat =
      b0.toNat + 2 ^ 8 * b1.toNat + 2 ^ 16 * b2.toNat + 2 ^ 24 * b3.toNat := by
  simp only [wordOfBytes, toNat_append_eq_add]
  omega

/-- The byte from bit `k` on is the number with the bits below dropped, modulo 2^8. -/
theorem toNat_extractLsb'_byte (x : BitVec n) (k : Nat) :
    (x.extractLsb' k 8).toNat = x.toNat / 2 ^ k % 256 := by
  rw [BitVec.extractLsb'_toNat, Nat.shiftRight_eq_div_pow]

/-- The lowest byte is the number modulo 2^8. -/
theorem toNat_extractLsb'_lowest (x : BitVec n) : (x.extractLsb' 0 8).toNat = x.toNat % 256 := by
  rw [toNat_extractLsb'_byte, pow_zero, Nat.div_one]

/-- The highest byte of a word is all that stands above its low 24 bits. -/
theorem toNat_extractLsb'_highest (x : Word) : (x.extractLsb' 24 8).toNat = x.toNat / 2 ^ 24 := by
  rw [toNat_extractLsb'_byte]
  omega

/-- A byte of the low halfword of a word is that byte of the word. -/
theorem lowHalf_extractLsb' (x : Word) {k : Nat} (h : k + 8 ≤ 16) :
    (lowHalf x).extractLsb' k 8 = x.extractLsb' k 8 :=
  BitVec.extractLsb'_extractLsb'_of_le h

/-- A byte widened by zeros has the byte's unsigned value (R63). -/
theorem byteZero_eq_ofNat (b : Byte) : byteZero b = BitVec.ofNat 32 b.toNat :=
  (BitVec.ofNat_toNat 32 b).symm

/-- A halfword widened by zeros has the halfword's unsigned value (R63). -/
theorem halfZero_eq_ofNat (h : Half) : halfZero h = BitVec.ofNat 32 h.toNat :=
  (BitVec.ofNat_toNat 32 h).symm

end Values

section Rules

variable {i : Instr} {s : State}

/-! ### The value a load reads (R56) -/

/-- The halfword read is the number its two bytes form in the machine's byte order. -/
theorem State.memRead16_toNat (s : State) (a : Word) :
    (s.cfg.endian = .little →
      (s.memRead16 a).toNat = (s.byteAt a).toNat + 256 * (s.byteAt (a + 1#32)).toNat) ∧
    (s.cfg.endian = .big →
      (s.memRead16 a).toNat = 256 * (s.byteAt a).toNat + (s.byteAt (a + 1#32)).toNat) := by
  constructor <;> intro he <;> simp only [State.memRead16, he, toNat_append_eq_add]
  · exact Nat.add_comm ..
  · rfl

/-- The word read is the number its four bytes form in the machine's byte order. -/
theorem State.memRead32_toNat (s : State) (a : Word) :
    (s.cfg.endian = .little → (s.memRead32 a).toNat = (s.byteAt a).toNat +
      2 ^ 8 * (s.byteAt (a + 1#32)).toNat + 2 ^ 16 * (s.byteAt (a + 2#32)).toNat +
      2 ^ 24 * (s.byteAt (a + 3#32)).toNat) ∧
    (s.cfg.endian = .big → (s.memRead32 a).toNat = 2 ^ 24 * (s.byteAt a).toNat +
      2 ^ 16 * (s.byteAt (a + 1#32)).toNat + 2 ^ 8 * (s.byteAt (a + 2#32)).toNat +
      (s.byteAt (a + 3#32)).toNat) := by
  constructor <;> intro he <;> rw [State.memRead32, he]
  · exact wordOfBytes_little_toNat ..
  · rw [wordOfBytes_big, wordOfBytes_little_toNat]
    omega

/-! ### The bytes a store leaves (R57) -/

/-- The byte after `MemWrite(a, 1, LB(x))`. -/
theorem State.memWrite8_lowByte_toNat (a x : Word) (hw : Memory.wf s.mem = true) :
    ((s.memWrite8 a (lowByte x)).byteAt a).toNat = x.toNat % 256 := by
  rw [State.byteAt_memWrite8 a a _ hw, if_pos rfl]
  exact toNat_extractLsb'_lowest x

/-- The bytes after `MemWrite(a, 2, LH(x))`, in the machine's byte order. -/
theorem State.memWrite16_lowHalf_toNat (a x : Word) (hw : Memory.wf s.mem = true) :
    (s.cfg.endian = .little →
      ((s.memWrite16 a (lowHalf x)).byteAt a).toNat = x.toNat % 256 ∧
      ((s.memWrite16 a (lowHalf x)).byteAt (a + 1#32)).toNat = x.toNat / 256 % 256) ∧
    (s.cfg.endian = .big →
      ((s.memWrite16 a (lowHalf x)).byteAt a).toNat = x.toNat / 256 % 256 ∧
      ((s.memWrite16 a (lowHalf x)).byteAt (a + 1#32)).toNat = x.toNat % 256) := by
  obtain ⟨b0, b1⟩ := State.memWrite16_bytes a (lowHalf x) hw
  have hlow : ((lowHalf x).extractLsb' 0 8).toNat = x.toNat % 256 := by
    rw [lowHalf_extractLsb' x (by decide), toNat_extractLsb'_lowest]
  have hhigh : ((lowHalf x).extractLsb' 8 8).toNat = x.toNat / 256 % 256 := by
    rw [lowHalf_extractLsb' x (by decide)]
    exact toNat_extractLsb'_byte x 8
  constructor <;> intro he <;> rw [b0, b1, he]
  · exact ⟨hlow, hhigh⟩
  · exact ⟨hhigh, hlow⟩

/-- The bytes after `MemWrite(a, 4, x)`, in the machine's byte order. -/
theorem State.memWrite32_toNat (a x : Word) (hw : Memory.wf s.mem = true) :
    (s.cfg.endian = .little →
      ((s.memWrite32 a x).byteAt a).toNat = x.toNat % 256 ∧
      ((s.memWrite32 a x).byteAt (a + 1#32)).toNat = x.toNat / 2 ^ 8 % 256 ∧
      ((s.memWrite32 a x).byteAt (a + 2#32)).toNat = x.toNat / 2 ^ 16 % 256 ∧
      ((s.memWrite32 a x).byteAt (a + 3#32)).toNat = x.toNat / 2 ^ 24) ∧
    (s.cfg.endian = .big →
      ((s.memWrite32 a x).byteAt a).toNat = x.toNat / 2 ^ 24 ∧
      ((s.memWrite32 a x).byteAt (a + 1#32)).toNat = x.toNat / 2 ^ 16 % 256 ∧
      ((s.memWrite32 a x).byteAt (a + 2#32)).toNat = x.toNat / 2 ^ 8 % 256 ∧
      ((s.memWrite32 a x).byteAt (a + 3#32)).toNat = x.toNat % 256) := by
  obtain ⟨b0, b1, b2, b3⟩ := State.memWrite32_bytes a x hw
  have hlow := toNat_extractLsb'_lowest x
  have hhigh := toNat_extractLsb'_highest x
  have hbyte := toNat_extractLsb'_byte x
  constructor <;> intro he <;> rw [b0, b1, b2, b3, he]
  · exact ⟨hlow, hbyte 8, hbyte 16, hhigh⟩
  · exact ⟨hhigh, hbyte 16, hbyte 8, hlow⟩

/-! ### Loads (R217 to R221, R225) -/

/-- `lb` is the shared load of a byte (R217). -/
theorem exec_lb (s : State) (rt : Reg) (imm : Imm) (rs : Reg) :
    exec (.lb rt imm rs) s = s.load .byte (displaced (s.readGpr rs) imm) fun u =>
      u.writeGpr rt (byteSigned (u.memRead8 (displaced (s.readGpr rs) imm))) := rfl

/-- `lh` is the shared load of a halfword (R219). -/
theorem exec_lh (s : State) (rt : Reg) (imm : Imm) (rs : Reg) :
    exec (.lh rt imm rs) s = s.load .half (displaced (s.readGpr rs) imm) fun u =>
      u.writeGpr rt (halfSigned (u.memRead16 (displaced (s.readGpr rs) imm))) := rfl

/-- A byte load may be performed from every mapped address (spec/20_memory.md R59, R62). -/
theorem State.canLoad_byte_iff (s : State) (a : Word) : s.CanLoad .byte a ↔ s.isMapped a = true := by
  simp [State.CanLoad, Width.span_byte, Width.bytes, Nat.mod_one]

/-- A byte load from an unmapped address raises `BusError`: every address is aligned for it (R59, R62). -/
theorem LoadRaises.byte_unmapped {a : Word} (h : LoadRaises i s .byte a) (hm : s.isMapped a = false) :
    Raises i s (.busError .load a) :=
  h.2 (Nat.mod_one _) ⟨a, by rw [Width.span_byte]; exact List.mem_singleton_self a, hm⟩

/-! ### Stores (R222 to R224, R226) -/

/-- A store that may be performed completes: what its effect writes, and what holds after it, is written
and holds in the next state. -/
theorem State.CanStore.completes {w : Width} {a : Word} {f : State → State} {at_ : List Word}
    {P : State → Prop} (h : s.CanStore w a) (hexec : exec i s = s.store w a f)
    (heff : WritesMemory at_ s (f s).advance ∧ MovesOn s (f s).advance) (hP : P (f s).advance) :
    ∃ t, exec i s = .next t ∧ WritesMemory at_ s t ∧ MovesOn s t ∧ P t :=
  ⟨_, hexec.trans (State.store_completes f h), heff.1, heff.2, hP⟩

end Rules

/-! ### The obligations -/

/-- Settles O43: the halfword loaded is the one `MemRead` answers, the same for both instructions. -/
theorem halfwordLoads : Obligations.HalfwordLoads := by
  intro s rt rs imm
  refine ⟨coded_encode (.lh rt imm rs), coded_encode (.lhu rt imm rs), loadRaises_of_loadAccess s rfl,
    loadRaises_of_loadAccess s rfl, fun h => ?_⟩
  obtain ⟨hlittle, hbig⟩ := s.memRead16_toNat (displaced (s.readGpr rs) imm)
  refine ⟨_, hlittle, hbig, setsGpr_of_load (exec_lh s rt imm rs) h, ?lhu⟩
  case lhu =>
    rw [← halfZero_eq_ofNat]
    exact setsGpr_of_load (exec_lhu s rt imm rs) h

/-- Settles O44: the word loaded is the one `MemRead` answers, whichever register file takes it. -/
theorem wordLoads : Obligations.WordLoads := by
  intro s rt rs ft imm
  refine ⟨coded_encode (.lw rt imm rs), coded_encode (.lwc1 ft imm rs), loadRaises_of_loadAccess s rfl,
    loadRaises_of_loadAccess s rfl, fun h => ?_⟩
  obtain ⟨hlittle, hbig⟩ := s.memRead32_toNat (displaced (s.readGpr rs) imm)
  exact ⟨_, hlittle, hbig, setsGpr_of_load (exec_lw s rt imm rs) h,
    setsFpr_of_load (exec_lwc1 s ft imm rs) h⟩

/-- Settles O45: what `MemWrite` leaves of the low byte or halfword, and its frame. -/
theorem byteAndHalfwordStores : Obligations.ByteAndHalfwordStores := by
  intro s rt rs imm hw
  refine ⟨coded_encode (.sb rt imm rs), coded_encode (.sh rt imm rs),
    storeRaises_of_storeAccess s rfl, storeRaises_of_storeAccess s rfl, fun h => ?sb, fun h => ?sh⟩
  case sb =>
    rw [← Width.span_byte]
    exact h.completes (exec_sb s rt imm rs) (writesMemory8_advance s _ _)
      (State.memWrite8_lowByte_toNat _ _ hw)
  case sh =>
    rw [← Width.span_half]
    exact h.completes (exec_sh s rt imm rs) (writesMemory16_advance s _ _)
      (State.memWrite16_lowHalf_toNat _ _ hw)

/-- Settles O46: both are the store of a word, from a general or a floating-point register. -/
theorem wordStores : Obligations.WordStores := by
  intro s rt rs ft imm hw
  refine ⟨coded_encode (.sw rt imm rs), coded_encode (.swc1 ft imm rs),
    storeRaises_of_storeAccess s rfl, storeRaises_of_storeAccess s rfl, fun h => ?sw, fun h => ?swc1⟩
  case sw =>
    rw [← Width.span_word]
    exact h.completes (exec_sw s rt imm rs) (writesMemory32_advance s _ _)
      (State.memWrite32_toNat _ _ hw)
  case swc1 =>
    rw [← Width.span_word]
    exact h.completes (exec_swc1 s ft imm rs) (writesMemory32_advance s _ _)
      (State.memWrite32_toNat _ _ hw)

/-- Settles O42: a byte load has no alignment to fail, so whether the byte is mapped decides. -/
theorem byteLoads : Obligations.ByteLoads := by
  intro s rt rs imm
  refine ⟨coded_encode (.lb rt imm rs), coded_encode (.lbu rt imm rs), fun hm => ?mapped,
    fun hm => ?unmapped⟩
  case mapped =>
    have h := (s.canLoad_byte_iff _).2 hm
    rw [← byteZero_eq_ofNat]
    exact ⟨setsGpr_of_load (exec_lb s rt imm rs) h, setsGpr_of_load (exec_lbu s rt imm rs) h⟩
  case unmapped =>
    exact ⟨(loadRaises_of_loadAccess s rfl).byte_unmapped hm,
      (loadRaises_of_loadAccess s rfl).byte_unmapped hm⟩

end Sys2Proof.Machine
end

section
/-! PROOFS. J-type jumps (spec/47_jtype.md): the target as a number in the region of `pc + 4`, the two
jumps, and a return through the link register. -/

namespace Sys2Proof.Machine

section Rules

variable {s : State}

/-- A jump's target is the start of the 256 MiB region of `pc + 4` plus four times the field (R240). -/
theorem jumpTarget_toNat (pc : Word) (target : Target) :
    (jumpTarget pc target).toNat = (pc + 4#32).toNat / 2 ^ 28 * 2 ^ 28 + target.toNat * 4 := by
  have hpc := (pc + 4#32).isLt
  rw [jumpTarget, toNat_append_eq_add, toNat_append_eq_add, BitVec.extractLsb'_toNat,
    Nat.shiftRight_eq_div_pow, BitVec.toNat_zero]
  omega

/-- `j` outside a delay slot completes (R241). -/
theorem jumps_j (target : Target) (hs : ¬ s.InSlot) :
    Jumps (.j target) s (jumpTarget s.pc target) :=
  ⟨_, (exec_j s target).trans (State.control_completes _ _ hs), writesNothing_transferTo s _ hs⟩

/-- `jal` outside a delay slot completes, with its link in `x[31]` (R242). -/
theorem linksAndJumps_jal (target : Target) (hs : ¬ s.InSlot) :
    LinksAndJumps (.jal target) s 31#5 s.linkValue (jumpTarget s.pc target) :=
  ⟨_, (exec_jal s target).trans (State.control_completes _ _ hs), writesGpr_transferTo s _ _ _ hs⟩

/-- Without delay slots, `jr` of the link register right after a linking jump goes to the link
(spec/43_rtype_jump_system.md R174). -/
theorem LinksAndJumps.jr_goes_to_link {i : Instr} {rd : Reg} {v g : Word} (h : LinksAndJumps i s rd v g)
    (hrd : rd ≠ 0#5) (hslots : s.cfg.delaySlots = false) :
    ∃ t u, exec i s = .next t ∧ exec (.jr rd) t = .next u ∧ u.pc = v := by
  obtain ⟨t, hexec, ⟨hlink, -, -, -, ⟨-, hcfg, -⟩, -, -⟩, -⟩ := h
  rw [if_neg hrd] at hlink
  have htslots : t.cfg.delaySlots = false := hcfg ▸ hslots
  obtain ⟨u, hret, -, hnow, -⟩ := jumps_jr rd (State.not_inSlot_of_noSlots htslots)
  exact ⟨t, u, hexec, hret, (hnow htslots).1.trans hlink⟩

end Rules

/-! ### The obligations -/

/-- Settles O39: both jumps go to `jumpTarget`, and the link is `linkValue`. -/
theorem regionJumps : Obligations.RegionJumps := by
  refine fun s target => ⟨coded_encode (.j target), coded_encode (.jal target),
    jumpTarget s.pc target, jumpTarget_toNat s.pc target,
    fun hs => ⟨jumps_j target hs, fun hslots => ?_, fun hslots => ?_⟩⟩
  · exact State.linkValue_of_noSlots hslots ▸ linksAndJumps_jal target hs
  · exact State.linkValue_of_slots hslots ▸ linksAndJumps_jal target hs

/-- Settles O53: `jal` leaves `pc + 4` in `x[31]`, which is where `jr $31` goes. -/
theorem callThenReturn : Obligations.CallThenReturn := by
  intro s target hslots
  have hjal := linksAndJumps_jal target (State.not_inSlot_of_noSlots hslots)
  rw [State.linkValue_of_noSlots hslots] at hjal
  exact hjal.jr_goes_to_link (by decide) hslots

end Sys2Proof.Machine
end

section
/-! PROOFS. Coprocessor instructions (spec/48_coprocessor.md): the moves write one register, and the
floating-point instructions are one shared checked write whose condition is an odd register. -/

namespace Sys2Proof.Machine

section Rules

variable {i : Instr} {s : State}

/-- An instruction that raises nothing completes with the value it writes to a floating-point register. -/
theorem setsFpr_of_finish {fd : FReg} {v : Word} (hexec : exec i s = (s.writeFpr fd v).finish) :
    SetsFpr i s fd v :=
  ⟨_, hexec, writesFpr_advance s fd v⟩

/-! ### Odd registers (R253) -/

/-- A register field is not odd exactly if its number is even. -/
theorem oddFpr_eq_false_iff_mod (f : FReg) : oddFpr f = false ↔ f.toNat % 2 = 0 :=
  (oddFpr_eq_false_iff f).trans beq_iff_eq

/-- A register field is odd exactly if its number is. -/
theorem oddFpr_eq_true_iff_mod (f : FReg) : oddFpr f = true ↔ f.toNat % 2 = 1 := by
  rw [← Bool.not_eq_false, oddFpr_eq_false_iff_mod]
  exact Nat.mod_two_ne_zero

/-- A floating-point instruction completes if no register field is odd, and raises if one is (R253). -/
theorem setsFpr_or_raises_of_fpResult {fd : FReg} {odd : Bool} {v : Word}
    (hexec : exec i s = s.fpResult (encode i) odd fd v) :
    (odd = false → SetsFpr i s fd v) ∧
    (odd = true → Raises i s (.reservedInstruction (encode i))) :=
  ⟨fun h => ⟨_, hexec.trans (State.checked_completes _ _ h), writesFpr_advance s fd v⟩,
    fun h => hexec.trans (State.checked_raises _ _ h)⟩

/-- The instructions with three register fields, by the numbers of their registers. -/
theorem setsFpr_or_raises_of_three {fd fs ft : FReg} {v : Word}
    (hexec : exec i s = s.fpResult (encode i) (oddFpr fd || oddFpr fs || oddFpr ft) fd v) :
    (fd.toNat % 2 = 0 → fs.toNat % 2 = 0 → ft.toNat % 2 = 0 → SetsFpr i s fd v) ∧
    (fd.toNat % 2 = 1 ∨ fs.toNat % 2 = 1 ∨ ft.toNat % 2 = 1 →
      Raises i s (.reservedInstruction (encode i))) := by
  simpa only [Bool.or_eq_false_iff, Bool.or_eq_true, oddFpr_eq_true_iff_mod, oddFpr_eq_false_iff_mod,
    and_imp, or_assoc] using setsFpr_or_raises_of_fpResult hexec

/-- The instructions with two register fields, by the numbers of their registers. -/
theorem setsFpr_or_raises_of_two {fd fs : FReg} {v : Word}
    (hexec : exec i s = s.fpResult (encode i) (oddFpr fd || oddFpr fs) fd v) :
    (fd.toNat % 2 = 0 → fs.toNat % 2 = 0 → SetsFpr i s fd v) ∧
    (fd.toNat % 2 = 1 ∨ fs.toNat % 2 = 1 → Raises i s (.reservedInstruction (encode i))) := by
  simpa only [Bool.or_eq_false_iff, Bool.or_eq_true, oddFpr_eq_true_iff_mod, oddFpr_eq_false_iff_mod,
    and_imp] using setsFpr_or_raises_of_fpResult hexec

/-! ### The moves -/

variable (s) (rt : Reg) (fs : FReg) (rd : CReg)

/-- `mfc0` copies a coprocessor-0 register (R250). -/
theorem setsGpr_mfc0 : SetsGpr (.mfc0 rt rd) s rt (s.readCp0 rd) := setsGpr_of_finish rfl

/-- `mfc1` copies a floating-point register, odd or even (R251). -/
theorem setsGpr_mfc1 : SetsGpr (.mfc1 rt fs) s rt (s.readFpr fs) := setsGpr_of_finish rfl

/-- `mtc1` copies to a floating-point register, odd or even (R252). -/
theorem setsFpr_mtc1 : SetsFpr (.mtc1 rt fs) s fs (s.readGpr rt) := setsFpr_of_finish rfl

end Rules

/-! ### The obligations -/

/-- Settles O50: the four differ only in the parameter whose value they write. -/
theorem fpArithmetic : Obligations.FpArithmetic := by
  intro s fd fs ft
  obtain ⟨add_even, add_odd⟩ := setsFpr_or_raises_of_three (i := .addS fd fs ft) (s := s) rfl
  obtain ⟨sub_even, sub_odd⟩ := setsFpr_or_raises_of_three (i := .subS fd fs ft) (s := s) rfl
  obtain ⟨mul_even, mul_odd⟩ := setsFpr_or_raises_of_three (i := .mulS fd fs ft) (s := s) rfl
  obtain ⟨div_even, div_odd⟩ := setsFpr_or_raises_of_three (i := .divS fd fs ft) (s := s) rfl
  exact ⟨coded_encode (.addS fd fs ft), coded_encode (.subS fd fs ft), coded_encode (.mulS fd fs ft),
    coded_encode (.divS fd fs ft), add_even, add_odd, sub_even, sub_odd, mul_even, mul_odd, div_even,
    div_odd⟩

/-- Settles O51: `mov.s` writes the register it reads, the conversions their parameter of it. -/
theorem fpMoveAndConvert : Obligations.FpMoveAndConvert := by
  intro s fd fs
  obtain ⟨mov_even, mov_odd⟩ := setsFpr_or_raises_of_two (i := .movS fd fs) (s := s) rfl
  obtain ⟨cvtSW_even, cvtSW_odd⟩ := setsFpr_or_raises_of_two (i := .cvtSW fd fs) (s := s) rfl
  obtain ⟨cvtWS_even, cvtWS_odd⟩ := setsFpr_or_raises_of_two (i := .cvtWS fd fs) (s := s) rfl
  exact ⟨coded_encode (.movS fd fs), coded_encode (.cvtSW fd fs), coded_encode (.cvtWS fd fs),
    mov_even, mov_odd, cvtSW_even, cvtSW_odd, cvtWS_even, cvtWS_odd⟩

/-- Settles O49: each move is a single register write, and no step writes coprocessor 0. -/
theorem coprocessorMoves : Obligations.CoprocessorMoves := by
  intro s rt fs rd
  refine ⟨coded_encode (.mfc0 rt rd), coded_encode (.mfc1 rt fs), coded_encode (.mtc1 rt fs),
    setsGpr_mfc0 s rt rd, setsGpr_mfc1 s rt fs, setsFpr_mtc1 s rt fs, fun t hstep => ?_⟩
  obtain ⟨-, -, hcp0⟩ := launchParametersAreFixed s t hstep
  exact hcp0 rd

end Sys2Proof.Machine
end

section
/-! PROOFS. Exceptions (spec/60_exceptions.md): every instruction raises with a cause that the table of
exceptions lists or completes with the status it found, each listed cause does raise, and so does every
check of the fetch; and how a run ends. -/

namespace Sys2Proof.Machine

section Rules

variable {i : Instr} {s t : State} {e : Exception}

/-! ### Raised or completed -/

/-- The exception recorded can be read off the faulted state (R283). -/
theorem State.faulted_inj {d : Exception} (h : s.faulted d = s.faulted e) : d = e := by
  have hstatus := congrArg State.status h
  rw [State.faulted_status, State.faulted_status, Status.fault.injEq] at hstatus
  exact hstatus.1

/-- An effect is a raise, or leaves the status alone. -/
theorem ExecEffect.faulted_or_status (he : ExecEffect i s t) :
    (∃ e, t = s.faulted e) ∨ t.status = s.status := by
  cases he with
  | raised e => exact .inl ⟨e, rfl⟩
  | stored8 | stored16 | stored32 => right; simp
  | wroteGpr | wroteFpr | wroteHiLo | movedOn | jumped | linked => exact .inr rfl

/-- The instruction raises an exception that it has a listed cause for (R281), or completes with the status
it found. -/
def RaisesByCauseOrCompletes (i : Instr) (s : State) : Prop :=
  (∃ e, Cause s i e ∧ Raises i s e) ∨ ∃ t, exec i s = .next t ∧ t.status = s.status

/-- An instruction without checks completes. -/
theorem completes_of_finish {u : State} (hexec : exec i s = u.finish) (hu : u.status = s.status) :
    RaisesByCauseOrCompletes i s :=
  .inr ⟨_, hexec, hu⟩

/-- An instruction whose whole effect is on HI and LO completes. -/
theorem completes_of_setsHiLo {hi lo : Word} (h : SetsHiLo i s hi lo) :
    RaisesByCauseOrCompletes i s := by
  obtain ⟨t, hexec, ⟨-, -, -, -, ⟨-, -, hstatus⟩, -⟩, -⟩ := h
  exact .inr ⟨t, hexec, hstatus⟩

/-- A checked instruction whose condition is a listed cause. -/
theorem raisesByCause_of_checked {c : Bool} {f : State → State} (hexec : exec i s = s.checked c e f)
    (hf : (f s).status = s.status) (hc : c = true → Cause s i e) : RaisesByCauseOrCompletes i s := by
  cases c with
  | false => exact .inr ⟨_, hexec.trans (State.checked_completes e f rfl), hf⟩
  | true => exact .inl ⟨e, hc rfl, hexec.trans (State.checked_raises e f rfl)⟩

/-- The exceptions of a load's checks are its listed causes. -/
theorem raisesByCause_of_load {w : Width} {rs : Reg} {imm : Imm} {f : State → State}
    (ha : i.loadAccess = some (w, rs, imm))
    (hexec : exec i s = s.load w (displaced (s.readGpr rs) imm) f) (hf : (f s).status = s.status) :
    RaisesByCauseOrCompletes i s := by
  cases hc : s.checkLoad w (displaced (s.readGpr rs) imm) with
  | none =>
    have hcan := (State.checkLoad_eq_none _ _ _).1 hc
    exact .inr ⟨_, hexec.trans (State.load_completes f hcan), hf⟩
  | some e =>
    refine .inl ⟨e, ?_, hexec.trans (State.load_raises f hc)⟩
    obtain ⟨rfl, hmis⟩ | ⟨rfl, hal, hunmapped⟩ := State.checkLoad_cases hc
    · exact ⟨w, rs, imm, ha, rfl, hmis⟩
    · exact ⟨w, rs, imm, ha, rfl, hal, hunmapped⟩

/-- The exceptions of a store's checks are its listed causes. -/
theorem raisesByCause_of_store {w : Width} {rs : Reg} {imm : Imm} {f : State → State}
    (ha : i.storeAccess = some (w, rs, imm))
    (hexec : exec i s = s.store w (displaced (s.readGpr rs) imm) f) (hf : (f s).status = s.status) :
    RaisesByCauseOrCompletes i s := by
  cases hc : s.checkStore w (displaced (s.readGpr rs) imm) with
  | none =>
    have hcan := (State.checkStore_eq_none _ _ _).1 hc
    exact .inr ⟨_, hexec.trans (State.store_completes f hcan), hf⟩
  | some e =>
    refine .inl ⟨e, ?_, hexec.trans (State.store_raises f hc)⟩
    obtain ⟨rfl, hmis⟩ | ⟨rfl, hal, hrefused⟩ := State.checkStore_cases hc
    · exact ⟨w, rs, imm, ha, rfl, hmis⟩
    · exact ⟨w, rs, imm, ha, rfl, hal, hrefused⟩

/-- A branch or jump raises only in a delay slot. -/
theorem raisesByCause_of_transfer (hi : i.isTransfer = true) : RaisesByCauseOrCompletes i s := by
  by_cases hs : s.InSlot
  · have hcause : Cause s i (.reservedInstruction (encode i)) := ⟨rfl, .inr ⟨hi, hs⟩⟩
    exact .inl ⟨_, hcause, raises_transfer_of_inSlot hi hs⟩
  · exact .inr (exec_transfer_of_not_inSlot hi hs)

/-- A register number is odd exactly if it is not even. -/
theorem oddFpr_eq_not_fprEven (f : FReg) : oddFpr f = !fprEven f := by revert f; decide

/-- A floating-point instruction raises only for a form the spec does not define (R253). -/
theorem raisesByCause_of_fpResult {fd : FReg} {odd : Bool} {v : Word}
    (hexec : exec i s = s.fpResult (encode i) odd fd v) (hodd : odd = !i.wellFormed) :
    RaisesByCauseOrCompletes i s := by
  refine raisesByCause_of_checked hexec rfl fun h => ⟨rfl, .inl ?_⟩
  rw [← Bool.not_eq_true', ← hodd, h]

/-- Every instruction raises by a listed cause or completes. -/
theorem raisesByCauseOrCompletes (i : Instr) (s : State) : RaisesByCauseOrCompletes i s := by
  cases i
  case add rd rs rt =>
    refine raisesByCause_of_checked (exec_add s rd rs rt) rfl fun h => .inl ⟨rd, rs, rt, rfl, ?_⟩
    exact (addOverflows_iff _ _).1 h
  case sub rd rs rt =>
    refine raisesByCause_of_checked (exec_sub s rd rs rt) rfl fun h =>
      .inr (.inl ⟨rd, rs, rt, rfl, ?_⟩)
    exact (subOverflows_iff _ _).1 h
  case addi rt rs imm =>
    refine raisesByCause_of_checked (exec_addi s rt rs imm) rfl fun h =>
      .inr (.inr ⟨rt, rs, imm, rfl, ?_⟩)
    rw [← immSigned_toInt]
    exact (addOverflows_iff _ _).1 h
  case syscall => exact .inl ⟨.systemCall, rfl, raises_syscall s⟩
  case brk => exact .inl ⟨.breakpoint, rfl, raises_brk s⟩
  case div rs rt =>
    by_cases h0 : s.readGpr rt = 0#32
    · exact completes_of_finish (exec_div_zero h0) rfl
    · exact completes_of_setsHiLo (setsHiLo_div h0)
  case divu rs rt =>
    by_cases h0 : s.readGpr rt = 0#32
    · exact completes_of_finish (exec_divu_zero h0) rfl
    · exact completes_of_setsHiLo (setsHiLo_divu h0)
  case lb rt imm rs => exact raisesByCause_of_load rfl (exec_lb s rt imm rs) rfl
  case lbu rt imm rs => exact raisesByCause_of_load rfl (exec_lbu s rt imm rs) rfl
  case lh rt imm rs => exact raisesByCause_of_load rfl (exec_lh s rt imm rs) rfl
  case lhu rt imm rs => exact raisesByCause_of_load rfl (exec_lhu s rt imm rs) rfl
  case lw rt imm rs => exact raisesByCause_of_load rfl (exec_lw s rt imm rs) rfl
  case lwc1 ft imm rs => exact raisesByCause_of_load rfl (exec_lwc1 s ft imm rs) rfl
  case sb rt imm rs => exact raisesByCause_of_store rfl (exec_sb s rt imm rs) (by simp)
  case sh rt imm rs => exact raisesByCause_of_store rfl (exec_sh s rt imm rs) (by simp)
  case sw rt imm rs => exact raisesByCause_of_store rfl (exec_sw s rt imm rs) (by simp)
  case swc1 ft imm rs => exact raisesByCause_of_store rfl (exec_swc1 s ft imm rs) (by simp)
  case addS | subS | mulS | divS | movS | cvtSW | cvtWS =>
    refine raisesByCause_of_fpResult rfl ?_
    simp only [Instr.wellFormed, Bool.not_and, oddFpr_eq_not_fprEven]
  case bltz | bgez | beq | bne | blez | bgtz | j | jal | jr | jalr =>
    exact raisesByCause_of_transfer rfl
  -- no other instruction checks anything
  all_goals exact completes_of_finish rfl rfl

/-! ### Each listed cause raises (R281) -/

/-- An instruction whose form the spec does not define is a floating-point one with an odd register. -/
theorem exec_eq_fpResult_of_not_wellFormed (s : State) (h : i.wellFormed = false) :
    ∃ fd v, exec i s = s.fpResult (encode i) (!i.wellFormed) fd v := by
  cases i
  case addS | subS | mulS | divS | movS | cvtSW | cvtWS =>
    simp only [Instr.wellFormed, Bool.not_and, ← oddFpr_eq_not_fprEven]
    exact ⟨_, _, rfl⟩
  all_goals cases h

/-- An instruction raises every exception it has a listed cause for. -/
theorem raises_of_cause (h : Cause s i e) : Raises i s e := by
  cases e with
  | addressError kind a =>
    cases kind with
    | fetch => exact h.elim
    | load =>
      obtain ⟨w, rs, imm, ha, rfl, hmis⟩ := h
      exact (loadRaises_of_loadAccess s ha).1 hmis
    | store =>
      obtain ⟨w, rs, imm, ha, rfl, hmis⟩ := h
      exact (storeRaises_of_storeAccess s ha).1 hmis
  | busError kind a =>
    cases kind with
    | fetch => exact h.elim
    | load =>
      obtain ⟨w, rs, imm, ha, rfl, hal, hunmapped⟩ := h
      exact (loadRaises_of_loadAccess s ha).2 hal hunmapped
    | store =>
      obtain ⟨w, rs, imm, ha, rfl, hal, hrefused⟩ := h
      exact (storeRaises_of_storeAccess s ha).2 hal hrefused
  | reservedInstruction w =>
    obtain ⟨rfl, hw | ⟨hi, hs⟩⟩ := h
    · obtain ⟨fd, v, hexec⟩ := exec_eq_fpResult_of_not_wellFormed s hw
      exact (setsFpr_or_raises_of_fpResult hexec).2 (by rw [hw, Bool.not_false])
    · exact raises_transfer_of_inSlot hi hs
  | integerOverflow =>
    obtain ⟨rd, rs, rt, rfl, hfits⟩ | ⟨rd, rs, rt, rfl, hfits⟩ | ⟨rt, rs, imm, rfl, hfits⟩ := h
    · exact (setsGpr_or_raises_add s rd rs rt).2 hfits
    · exact (setsGpr_or_raises_sub s rd rs rt).2 hfits
    · exact (setsGpr_or_raises_addi s rt rs imm).2 hfits
  | systemCall =>
    obtain rfl := h
    exact raises_syscall s
  | breakpoint =>
    obtain rfl := h
    exact raises_brk s

/-- A running machine whose instruction raises has the listed cause. -/
theorem cause_of_raises (hrun : s.status = .running) (h : Raises i s e) : Cause s i e := by
  obtain ⟨d, hcause, hraises⟩ | ⟨t, ht, hstatus⟩ := raisesByCauseOrCompletes i s
  · have hsame : s.faulted d = s.faulted e := Host.Outcome.next.inj (hraises.symm.trans h)
    exact State.faulted_inj hsame ▸ hcause
  · obtain rfl : s.faulted e = t := Host.Outcome.next.inj (h.symm.trans ht)
    rw [hrun] at hstatus
    cases hstatus

/-! ### The fetch -/

/-- No row covers a word that the decoder rejects (spec/30_encoding.md R100). -/
theorem uncovered_of_decodeWord_error {w : Word} {r : Reject} (h : decodeWord w = .error r) :
    ∀ q ∈ opcodeTable, q.covers w = false := by
  refine fun q hq => Bool.eq_false_iff.2 fun hcov => ?_
  obtain ⟨i, hd, -⟩ := exists_decodeWord_of_covers hq hcov
  cases h.symm.trans hd

/-- Every exception of fetching and decoding, with its cause. -/
theorem State.fetch_error_cases (h : s.fetch = .error e) :
    (e = .addressError .fetch s.pc ∧ s.pc.toNat % 4 ≠ 0) ∨
    (e = .busError .fetch s.pc ∧
      ((∃ b ∈ Width.word.span s.pc, s.isMapped b = false) ∨ s.inText s.pc = false)) ∨
    (e = .reservedInstruction (s.memRead32 s.pc) ∧
      ∀ r ∈ opcodeTable, r.covers (s.memRead32 s.pc) = false) := by
  by_cases hal : s.pc.toNat % 4 = 0
  · by_cases hm : (∃ b ∈ Width.word.span s.pc, s.isMapped b = false) ∨ s.inText s.pc = false
    · rw [State.fetch_of_check (State.checkFetch_refused s hal hm), Except.error.injEq] at h
      exact .inr (.inl ⟨h.symm, hm⟩)
    · have hcan : s.CanFetch := by simpa [State.CanFetch, hal] using hm
      cases hd : decodeWord (s.memRead32 s.pc) with
      | ok i =>
        rw [State.fetch_of_decodeWord hcan hd] at h
        cases h
      | error r =>
        rw [State.fetch_of_decodeWord_error hcan hd, Except.error.injEq] at h
        exact .inr (.inr ⟨h.symm, uncovered_of_decodeWord_error hd⟩)
  · rw [State.fetch_of_check (State.checkFetch_misaligned s hal), Except.error.injEq] at h
    exact .inl ⟨h.symm, hal⟩

end Rules

/-! ### The obligations -/

/-- Settles O11: among the effects of an instruction only a raise changes the status. -/
theorem raiseIsPreciseAndTerminal : Obligations.RaiseIsPreciseAndTerminal := by
  refine ⟨fun s t hstep hstop => ?_, fun s e pc hfault => ?_⟩
  · obtain ⟨hrun, i, he⟩ := step_effect hstep
    exact he.faulted_or_status.resolve_right fun hsame => hstop (hsame.trans hrun)
  · have hstep := step_of_fault hfault
    exact ⟨hstep, fun t => by simp [hstep]⟩

/-- Settles O12: an instruction raises by a listed cause or not at all, and the fetch raises by one of
its checks or the decoder. -/
theorem exceptionsHaveExactlyTheListedCauses : Obligations.ExceptionsHaveExactlyTheListedCauses := by
  refine ⟨fun i s e hrun => ⟨cause_of_raises hrun, raises_of_cause⟩, fun s e hrun hnone hstep => ?_⟩
  cases hf : s.fetch with
  | ok i => exact absurd hf (hnone i)
  | error d =>
    rw [step_of_fetch_error hrun hf, Host.Outcome.next.injEq] at hstep
    rw [← State.faulted_inj hstep]
    exact State.fetch_error_cases hf

/-- Settles O13: an instruction that does not raise by a listed cause keeps the status. -/
theorem instructionWithoutCauseCompletes : Obligations.InstructionWithoutCauseCompletes := by
  intro i s hrun hnone
  obtain ⟨e, hcause, -⟩ | ⟨t, hexec, hstatus⟩ := raisesByCauseOrCompletes i s
  · exact absurd hcause (hnone e)
  · exact ⟨t, hexec, hstatus.trans hrun⟩

/-- Settles O14: a fetch that raises and an instruction both answer a next state. -/
theorem runningMachineAlwaysSteps : Obligations.RunningMachineAlwaysSteps := by
  intro s hrun
  cases hf : s.fetch with
  | error e => exact ⟨_, step_of_fetch_error hrun hf⟩
  | ok i =>
    obtain ⟨t, hexec, -⟩ := exec_allowed i s
    exact ⟨t, (step_of_fetch_ok hrun hf).trans hexec⟩

/-- Settles O56: the classification looks at `status` alone, and only two of the exceptions at the exits. -/
theorem runEnds : Obligations.RunEnds := by
  intro s exits
  cases hs : s.status with
  | running => simp [State.runEnd, hs]
  | fault e pc =>
    cases e
    case breakpoint | systemCall => by_cases hpc : pc ∈ exits <;> simp [State.runEnd, hs, hpc]
    all_goals simp [State.runEnd, hs]

end Sys2Proof.Machine
end

section
/-! PROOFS. Placing a word for the next step (spec/60_exceptions.md R307, spec/20_memory.md R55): what
`loadWordAtPc` leaves unchanged, which bytes it maps and puts in `text`, and that the word may be fetched
and is read back. -/

namespace Sys2Proof.Machine

/-! ### Address sets -/

/-- The bytes of an aligned access are those at the addresses from its own on. -/
theorem Width.mem_span_iff (w : Width) {a b : Word} (hal : a.toNat % w.bytes = 0) :
    b ∈ w.span a ↔ a.toNat ≤ b.toNat ∧ b.toNat < a.toNat + w.bytes := by
  have hinj : Function.Injective (BitVec.toNat : Word → Nat) := fun _ _ => BitVec.eq_of_toNat_eq
  rw [← List.mem_map_of_injective hinj, w.span_toNat a hal, List.mem_map]
  simp only [List.mem_range]
  constructor
  · rintro ⟨k, hk, hb⟩
    omega
  · rintro ⟨hlo, hhi⟩
    exact ⟨b.toNat - a.toNat, by omega, by omega⟩

/-- An address is in a list of ranges that one more was put before under a condition. -/
theorem inRegions_ite_cons (c : Prop) [Decidable c] (r : Region) (rs : List Region) (a : Nat) :
    inRegions (if c then r :: rs else rs) a = true ↔
      (c ∧ r.base ≤ a ∧ a < r.base + r.size) ∨ inRegions rs a = true := by
  by_cases hc : c <;> simp [inRegions, hc]

/-- A store changes neither which bytes are mapped nor which are in `text` (R62, R70). -/
@[simp] theorem State.memWrite32_spanUnmapped (s : State) (a v : Word) (w : Width) (b : Word) :
    (s.memWrite32 a v).spanUnmapped w b = s.spanUnmapped w b := by
  simp [State.spanUnmapped, State.isMapped]
@[simp] theorem State.memWrite32_inText (s : State) (a v b : Word) :
    (s.memWrite32 a v).inText b = s.inText b := by
  simp [State.inText]

/-! ### `loadWordAtPc`, field by field -/

/-- Placing the word whose bits are those of `w` is loading `w`. -/
theorem State.withFetchWord_toNat (s : State) (w : Word) :
    s.withFetchWord 32 w.toNat = s.loadWordAtPc w := by
  rw [State.withFetchWord, Nat.mod_eq_of_lt w.isLt, BitVec.ofNat_toNat, BitVec.setWidth_eq]

section LoadWordAtPc

variable (s : State) (w : Word)

@[simp] theorem State.loadWordAtPc_gpr : (s.loadWordAtPc w).gpr = s.gpr := State.memWrite32_gpr ..
@[simp] theorem State.loadWordAtPc_pc : (s.loadWordAtPc w).pc = s.pc := State.memWrite32_pc ..
@[simp] theorem State.loadWordAtPc_hi : (s.loadWordAtPc w).hi = s.hi := State.memWrite32_hi ..
@[simp] theorem State.loadWordAtPc_lo : (s.loadWordAtPc w).lo = s.lo := State.memWrite32_lo ..
@[simp] theorem State.loadWordAtPc_fpr : (s.loadWordAtPc w).fpr = s.fpr := State.memWrite32_fpr ..
@[simp] theorem State.loadWordAtPc_cp0 : (s.loadWordAtPc w).cp0 = s.cp0 := State.memWrite32_cp0 ..
@[simp] theorem State.loadWordAtPc_mem : (s.loadWordAtPc w).mem = (s.memWrite32 s.pc w).mem := rfl
@[simp] theorem State.loadWordAtPc_status : (s.loadWordAtPc w).status = s.status :=
  State.memWrite32_status ..
@[simp] theorem State.loadWordAtPc_delay : (s.loadWordAtPc w).delay = s.delay :=
  State.memWrite32_delay ..
@[simp] theorem State.loadWordAtPc_draws : (s.loadWordAtPc w).draws = s.draws :=
  State.memWrite32_draws ..
@[simp] theorem State.loadWordAtPc_endian : (s.loadWordAtPc w).cfg.endian = s.cfg.endian := by
  simp [State.loadWordAtPc]
@[simp] theorem State.loadWordAtPc_delaySlots :
    (s.loadWordAtPc w).cfg.delaySlots = s.cfg.delaySlots := by
  simp [State.loadWordAtPc]

/-- Placing a word maps its bytes if one of them is not mapped. -/
theorem State.loadWordAtPc_mapped : (s.loadWordAtPc w).cfg.mapped =
    if s.spanUnmapped .word s.pc then ⟨s.pc.toNat, 4⟩ :: s.cfg.mapped else s.cfg.mapped := by
  simp [State.loadWordAtPc]

/-- Placing a word puts its address in `text` if it is not there. -/
theorem State.loadWordAtPc_text : (s.loadWordAtPc w).cfg.text =
    if s.inText s.pc then s.cfg.text else ⟨s.pc.toNat / 4 * 4, 4⟩ :: s.cfg.text := by
  simp [State.loadWordAtPc]

/-! ### The word placed -/

variable {s}

/-- The word placed is read back (spec/20_memory.md R64). -/
theorem State.loadWordAtPc_memRead32 (hw : Memory.wf s.mem = true) :
    (s.loadWordAtPc w).memRead32 s.pc = w := by
  have hplaced := State.memRead32_memWrite32 s.pc w hw
  simpa [State.memRead32, State.byteAt] using hplaced

variable (hal : s.pc.toNat % 4 = 0) (a : Word)

include hal

/-- The bytes mapped after placing a word: its own, and those mapped before. -/
theorem State.loadWordAtPc_isMapped_iff : (s.loadWordAtPc w).isMapped a = true ↔
    a ∈ Width.word.span s.pc ∨ s.isMapped a = true := by
  rw [State.isMapped, State.loadWordAtPc_mapped, inRegions_ite_cons, Width.word.mem_span_iff hal]
  refine or_congr_left' fun hnot => ⟨And.right, fun hspan => ⟨?_, hspan⟩⟩
  by_contra hmapped
  rw [Bool.not_eq_true, State.spanUnmapped_eq_false] at hmapped
  exact hnot (hmapped a ((Width.word.mem_span_iff hal).2 hspan))

/-- The bytes in `text` after placing a word: its own, and those in `text` before. -/
theorem State.loadWordAtPc_inText_iff : (s.loadWordAtPc w).inText a = true ↔
    a ∈ Width.word.span s.pc ∨ s.inText a = true := by
  have hword : s.pc.toNat / 4 * 4 = s.pc.toNat := by omega
  have hspan : a ∈ Width.word.span s.pc ↔
      s.pc.toNat ≤ a.toNat / 4 * 4 ∧ a.toNat / 4 * 4 < s.pc.toNat + 4 := by
    rw [Width.word.mem_span_iff hal, Width.bytes]
    omega
  rw [State.inText, State.loadWordAtPc_text, ← ite_not, inRegions_ite_cons, hword, hspan]
  refine or_congr_left' fun hnot => ⟨And.right, fun ha => ⟨fun htext => hnot ?_, ha⟩⟩
  have hsame : a.toNat / 4 * 4 = s.pc.toNat / 4 * 4 := by omega
  rwa [hsame]

/-- The word placed may be fetched. -/
theorem State.loadWordAtPc_canFetch : (s.loadWordAtPc w).CanFetch := by
  refine ⟨by rwa [State.loadWordAtPc_pc], fun b hb => ?_, ?_⟩
  · rw [State.loadWordAtPc_pc] at hb
    exact (State.loadWordAtPc_isMapped_iff w hal b).2 (.inl hb)
  · rw [State.loadWordAtPc_pc]
    refine (State.loadWordAtPc_inText_iff w hal s.pc).2 (.inl ?_)
    rw [Width.span_word]
    exact List.mem_cons_self

end LoadWordAtPc

/-! ### The obligation -/

/-- Settles O18: the placed word is mapped, in `text` and read back, so it is what the fetch decodes, and
`loadWordAtPc` writes nothing but its bytes and the two address sets. -/
theorem placedWordRunsNext : Obligations.PlacedWordRunsNext := by
  rintro s t w i hrun hal hw hdecode rfl
  rw [State.withFetchWord_toNat]
  have hread := State.loadWordAtPc_memRead32 w hw
  have hfetch : (s.loadWordAtPc w).fetch = .ok i := by
    refine State.fetch_of_decodeWord (State.loadWordAtPc_canFetch w hal) ?_
    rw [State.loadWordAtPc_pc, hread, hdecode]
  have hmapped := State.loadWordAtPc_isMapped_iff w hal
  have htext := State.loadWordAtPc_inText_iff w hal
  refine ⟨step_of_fetch_ok ((s.loadWordAtPc_status w).trans hrun) hfetch, hread,
    fun r _ => State.readGpr_congr (s.loadWordAtPc_gpr w) r,
    fun f _ => State.readFpr_congr (s.loadWordAtPc_fpr w) f,
    ⟨s.loadWordAtPc_hi w, s.loadWordAtPc_lo w⟩, State.readCp0_congr (s.loadWordAtPc_cp0 w),
    s.loadWordAtPc_pc w, s.loadWordAtPc_status w, s.loadWordAtPc_delay w, s.loadWordAtPc_draws w,
    s.loadWordAtPc_endian w, s.loadWordAtPc_delaySlots w, s.memWrite32_sameMemory s.pc w,
    fun a ha => ⟨(hmapped a).2 (.inl ha), (htext a).2 (.inl ha)⟩, fun a ha => ⟨?_, ?_⟩⟩
  · rw [Bool.eq_iff_iff, hmapped a, or_iff_right ha]
  · rw [Bool.eq_iff_iff, htext a, or_iff_right ha]

end Sys2Proof.Machine
end

section
/-! PROOFS. Reset (spec/70_reset_and_hazards.md R320) and the absence of hazards (R330, R331, R334): what
an instruction writes is what the next one reads. -/

namespace Sys2Proof.Machine

/-- After reset a register other than `$0` holds what the launch finds there (R320). -/
theorem State.readGpr_ofLaunch (l : Launch) {r : Reg} (hr : r ≠ 0#5) :
    (State.ofLaunch l).readGpr r = l.gpr[r.toNat]'r.isLt := by
  have hne : 0 ≠ r.toNat := fun h => hr (BitVec.eq_of_toNat_eq h.symm)
  rw [State.readGpr, if_neg hr]
  exact Vector.getElem_set_ne (by decide) r.isLt hne

section Rules

variable {i : Instr} {s t : State} {rt rd : Reg} {fs : FReg} {v hi lo : Word}

/-- A byte widened by sign has the byte's signed value (spec/20_memory.md R63). -/
theorem byteSigned_eq_ofInt (b : Byte) : byteSigned b = BitVec.ofInt 32 b.toInt := rfl

/-- A halfword widened by sign has the halfword's signed value (R63). -/
theorem halfSigned_eq_ofInt (h : Half) : halfSigned h = BitVec.ofInt 32 h.toInt := rfl

/-- What is written to a register other than `$0` is what the next `or` reads there (R330). -/
theorem SetsGpr.next_or (h : SetsGpr i s rt v) (hrt : rt ≠ 0#5) :
    ∃ t, exec i s = .next t ∧ SetsGpr (.or rd rt 0#5) t rd v := by
  obtain ⟨t, hexec, ⟨hread, -⟩, -⟩ := h
  rw [if_neg hrt] at hread
  have hor := setsGpr_or t rd rt 0#5
  rw [hread, State.readGpr_zero, BitVec.or_zero] at hor
  exact ⟨t, hexec, hor⟩

/-- What is written to a floating-point register is what the next `mfc1` reads there (R334). -/
theorem SetsFpr.next_mfc1 (h : SetsFpr i s fs v) :
    ∃ t, exec i s = .next t ∧ SetsGpr (.mfc1 rd fs) t rd v := by
  obtain ⟨t, hexec, ⟨hread, -⟩, -⟩ := h
  exact ⟨t, hexec, hread ▸ setsGpr_mfc1 t rd fs⟩

/-- What is written to HI and LO is what the next `mfhi` and `mflo` read (R331). -/
theorem WritesHiLo.next_mfhi_mflo (h : WritesHiLo hi lo s t) (rd : Reg) :
    SetsGpr (.mfhi rd) t rd hi ∧ SetsGpr (.mflo rd) t rd lo := by
  obtain ⟨rfl, rfl, -⟩ := h
  exact ⟨setsGpr_mfhi t rd, setsGpr_mflo t rd⟩

/-- An instruction that writes HI and LO, followed by `mfhi` or `mflo`, with what is known of the two. -/
theorem SetsHiLo.next_mfhi_mflo {P : Word → Word → Prop} (h : SetsHiLo i s hi lo) (hP : P hi lo)
    (rd : Reg) : ∃ t hi lo, exec i s = .next t ∧ WritesHiLo hi lo s t ∧
      SetsGpr (.mfhi rd) t rd hi ∧ SetsGpr (.mflo rd) t rd lo ∧ P hi lo := by
  obtain ⟨t, hexec, hw, -, -⟩ := h
  obtain ⟨hhi, hlo⟩ := hw.next_mfhi_mflo rd
  exact ⟨t, hi, lo, hexec, hw, hhi, hlo, hP⟩

/-- A division by zero followed by `mfhi` or `mflo`: whatever HI and LO hold, they read. -/
theorem next_mfhi_mflo_of_drawQuotient {P : Word → Word → Prop}
    (hexec : exec i s = s.drawQuotient.finish) (hP : ∀ hi lo, P hi lo) (rd : Reg) :
    ∃ t hi lo, exec i s = .next t ∧ WritesHiLo hi lo s t ∧
      SetsGpr (.mfhi rd) t rd hi ∧ SetsGpr (.mflo rd) t rd lo ∧ P hi lo := by
  obtain ⟨t, ht, hw, -, -⟩ := draws_of_drawQuotient hexec
  obtain ⟨hhi, hlo⟩ := hw.next_mfhi_mflo rd
  exact ⟨t, _, _, ht, hw, hhi, hlo, hP _ _⟩

end Rules

/-! ### The obligations -/

/-- Settles O52: every written value is read back from the state the instruction leaves; the values are
those of the loads, the moves, the products and the divisions. -/
theorem resultsVisibleToNextInstruction : Obligations.ResultsVisibleToNextInstruction := by
  intro s rt rd rs fs c imm
  obtain ⟨-, -, ⟨mhi, mlo, hmult, hproduct⟩, ⟨uhi, ulo, hmultu, huproduct⟩⟩ := exactProducts s rs rt
  refine ⟨fun hrt => ⟨fun h => ?lb, fun h => ?lbu, fun h => ?lh, fun h => ?lhu, fun h => ?lw, ?mfc1,
    ?mfc0⟩, hmult.next_mfhi_mflo hproduct rd, hmultu.next_mfhi_mflo huproduct rd, ?div, ?divu, ?mtc1,
    fun h => ?lwc1⟩
  case lb => rw [← byteSigned_eq_ofInt]; exact (setsGpr_of_load (exec_lb s rt imm rs) h).next_or hrt
  case lbu => rw [← byteZero_eq_ofNat]; exact (setsGpr_of_load (exec_lbu s rt imm rs) h).next_or hrt
  case lh => rw [← halfSigned_eq_ofInt]; exact (setsGpr_of_load (exec_lh s rt imm rs) h).next_or hrt
  case lhu => rw [← halfZero_eq_ofNat]; exact (setsGpr_of_load (exec_lhu s rt imm rs) h).next_or hrt
  case lw => exact (setsGpr_of_load (exec_lw s rt imm rs) h).next_or hrt
  case mfc1 => exact (setsGpr_mfc1 s rt fs).next_or hrt
  case mfc0 => exact (setsGpr_mfc0 s rt c).next_or hrt
  case div =>
    by_cases h0 : s.readGpr rt = 0#32
    · refine next_mfhi_mflo_of_drawQuotient (exec_div_zero h0) (fun hi lo => ⟨?_, ?_⟩) rd
      · exact fun hne => absurd h0 hne
      · intro _ hneg
        rw [h0] at hneg
        cases hneg
    · refine (setsHiLo_div h0).next_mfhi_mflo ⟨fun _ => sdiv_srem_spec h0, fun hs ht => ?_⟩ rd
      rw [hs, ht]
      decide
  case divu =>
    by_cases h0 : s.readGpr rt = 0#32
    · exact next_mfhi_mflo_of_drawQuotient (exec_divu_zero h0) (fun _ _ hne => absurd h0 hne) rd
    · exact (setsHiLo_divu h0).next_mfhi_mflo (fun _ => udiv_umod_spec h0) rd
  case mtc1 => exact (setsFpr_mtc1 s rt fs).next_mfc1
  case lwc1 => exact (setsFpr_of_load (exec_lwc1 s fs imm rs) h).next_mfc1

/-- Settles O17: reset takes every field from the launch but the four it states. -/
theorem resetState : Obligations.ResetState := fun l =>
  ⟨rfl, rfl, rfl, State.readGpr_zero _, fun _ hr => State.readGpr_ofLaunch l hr, rfl, rfl,
    fun _ => rfl, fun _ => rfl, fun _ => rfl, rfl⟩

/-- Settles O4: each word is the encoding of its instruction. -/
theorem specWordsDecode : Obligations.SpecWordsDecode :=
  ⟨decodeWord_encode (.add 3 1 2), decodeWord_encode (.sll 2 1 4), decodeWord_encode (.div 1 2),
    decodeWord_encode (.jalr 31 2), decodeWord_encode .syscall, decodeWord_encode (.addi 2 1 0xFFFF),
    decodeWord_encode (.bgez 1 2), decodeWord_encode (.lw 2 0xFFFC 1),
    decodeWord_encode (.swc1 2 8 1), decodeWord_encode (.j 0x0100008),
    decodeWord_encode (.mfc0 2 12), decodeWord_encode (.mtc1 2 4), decodeWord_encode (.cvtSW 2 4)⟩

end Sys2Proof.Machine
end
